-- ==== Sys2Proof/Word.lean ====
section
/-!
DEFINITION. The bit sequences of the cipher and the words of the two ports.

A sequence `s : Bits n` of the spec (R10) is a bit vector of width `n` whose most significant bit is
position 1 (R14, R15), so `val(s)` is `s.toNat`, `bits_n(v)` is `BitVec.ofNat n v`, `a ++ b` is
concatenation (R12) and `a xor b` is `a ^^^ b` (R13).
-/

namespace Sys2Proof

/-- `Bits[n]`: a sequence of exactly `n` bits (R10). -/
abbrev Bits (n : Nat) := BitVec n

/-- The command word `cmd[11:0]` (R81); wire 0 is bit 0 (R15). -/
abbrev CmdWord := BitVec 12

/-- The response word `rsp[9:0]` (R84); wire 0 is bit 0 (R15). -/
abbrev RspWord := BitVec 10

end Sys2Proof
end

