-- ==== Sys2Proof/Syntax.lean ====
section
/-!
DEFINITION. The commands of the core: one constructor of `Instr` per row of spec/opcode_table.json
(R80), the four commands of the spec's `step` (R19), and what the host can do to the core.
-/

namespace Sys2Proof

/-- The three commands of R80, each with its immediate operand (R34: no command names a register). -/
inductive Instr where
  /-- LOADKEY: format K, the ten key bits (R82, R137). -/
  | loadkey (k : Bits 10)
  /-- ENCRYPT: format B, the plaintext block (R83, R189). -/
  | encrypt (b : Bits 8)
  /-- DECRYPT: format B, the ciphertext block (R83, R190). -/
  | decrypt (b : Bits 8)
  deriving DecidableEq, Repr

/-- Why a command word is ILLEGAL (R93): the decoder's two named rejections. -/
inductive IllegalWord where
  /-- `op = 00` (R91). -/
  | opZero
  /-- `op` is 10 or 11 and `pad` is not 00 (R92). -/
  | padNonzero
  deriving DecidableEq, Repr

/-- The `Command` type of R19: one of the three commands, or ILLEGAL. -/
inductive Command where
  | legal (i : Instr)
  | illegal
  deriving DecidableEq, Repr

/-- The kind of a command, operand values left out: what the latency may depend on (R252, R254). -/
inductive CmdKind where
  | loadkey
  | encrypt
  | decrypt
  | illegal
  deriving DecidableEq, Repr

/-- The kind of a command. -/
def Command.kind : Command → CmdKind
  | .legal (.loadkey _) => .loadkey
  | .legal (.encrypt _) => .encrypt
  | .legal (.decrypt _) => .decrypt
  | .illegal => .illegal

/-- What the host can do to one core (R19, R24): present a command word, or assert reset. -/
inductive HostEvent where
  /-- A command word on the command port, accepted when the core comes to it (R81, R248). -/
  | command (w : CmdWord)
  /-- The reset input `rst` is asserted (R240); in a program listing, the line `RESET` (R95). -/
  | reset
  deriving DecidableEq, Repr

end Sys2Proof
end

