-- ==== Sys2Proof/Decode.lean ====
section
/-!
DEFINITION. The decoder, total on the 4096 command words (R93) and rejecting by name, and after it the
encoder. Fields by wire numbers (R81), operand position `i` on wire `width - i` (R87, R88).
-/

namespace Sys2Proof

/-- `op = cmd[11:10]` (R81). -/
def opField (w : CmdWord) : Bits 2 := w.extractLsb' 10 2

/-- `key = cmd[9:0]` of format K (R82); `k(i) = cmd[10-i]` (R87). -/
def keyField (w : CmdWord) : Bits 10 := w.extractLsb' 0 10

/-- `pad = cmd[9:8]` of format B (R83). -/
def padField (w : CmdWord) : Bits 2 := w.extractLsb' 8 2

/-- `blk = cmd[7:0]` of format B (R83); `b(i) = cmd[8-i]` (R88). -/
def blkField (w : CmdWord) : Bits 8 := w.extractLsb' 0 8

/-- The decoder (R90 to R93): one of the three commands, or the name of what makes the word ILLEGAL. -/
def decode (w : CmdWord) : Except IllegalWord Instr :=
  if opField w = 0b00#2 then .error .opZero
  else if opField w = 0b01#2 then .ok (.loadkey (keyField w))
  else if padField w ≠ 0b00#2 then .error .padNonzero
  else if opField w = 0b10#2 then .ok (.encrypt (blkField w))
  else .ok (.decrypt (blkField w))

/-- The command a word stands for, in the spec's `Command` type (R19, R93). -/
def decodeCommand (w : CmdWord) : Command :=
  match decode w with
  | .ok i => .legal i
  | .error _ => .illegal

/-- The word of a command, from the formats K and B (R81 to R83, R90). -/
def encode : Instr → CmdWord
  | .loadkey k => (0b01#2 ++ k : BitVec (2 + 10))
  | .encrypt b => (0b10#2 ++ 0b00#2 ++ b : BitVec (2 + 2 + 8))
  | .decrypt b => (0b11#2 ++ 0b00#2 ++ b : BitVec (2 + 2 + 8))

/-- The instruction read from the table's bits: the table's bit `i` is wire `i` of the one command word
(R81, R94). The core has twelve wires: a value with a bit above wire 11 is no command word (R67: nothing is
truncated), and none is answered for it. DESIGN CHOICE: with `nbits` below 12 the wires the bits leave out carry 0, so
`decodeTableWord 11 0x682` is a LOADKEY; the core itself has one command length, twelve wires (R94; log entry 6). -/
def decodeTableWord (nbits w : Nat) : Option Instr :=
  if w % 2 ^ nbits < 4096 then (decode (BitVec.ofNat 12 (w % 2 ^ nbits))).toOption else none

end Sys2Proof
end

