-- ==== Sys2Proof/WellFormed.lean ====
section
/-!
DEFINITION. The checks: which command words are legal, which source lists are sequences of the
length their role demands, and which lists are well-formed tables.

`Instr` itself needs no check: a key field is exactly ten wires and a block field exactly eight, so a
key or a block of another length cannot be presented (R67, R212) and every operand value is legal
(R82, R83).
-/

namespace Sys2Proof

/-- The three rows of the opcode map: match and mask (R90). -/
def opcodeRows : List (CmdWord × CmdWord) :=
  [(0x400#12, 0xC00#12), (0x800#12, 0xF00#12), (0xC00#12, 0xF00#12)]

/-- A word is legal when it is the command of some row: `(w AND mask) = match` (R90, R93). -/
def wordWf (w : CmdWord) : Bool :=
  opcodeRows.any fun row => w &&& row.2 == row.1

/-- A list in the source's notation (R96) is a sequence of exactly `n` bits: length `n`, every element
0 or 1 (R212 (a), (b), (c)). -/
def seqWf (n : Nat) (l : List Nat) : Bool :=
  l.length == n && l.all (fun d => decide (d ≤ 1))

/-- A permutation table of shape `n→m`: exactly `m` entries, every entry in `[1, n]` (R111). -/
def permWf (n m : Nat) (l : List Nat) : Bool :=
  l.length == m && l.all (fun e => decide (1 ≤ e) && decide (e ≤ n))

/-- IP and IPINV undo each other: `IPINV(IP(j)) = j` and `IP(IPINV(j)) = j` for `j = 1..8` (R118). An entry 0 reads entry 1
of the other table here (log entry 12); `permWf` refuses such a table. -/
def inverseWf (ip ipinv : List Nat) : Bool :=
  (List.range 8).all fun j =>
    ipinv.getD (ip.getD j 0 - 1) 0 == j + 1 && ip.getD (ipinv.getD j 0 - 1) 0 == j + 1

/-- Each of the values 1, 2, 3, 4 occurs exactly twice (R119). -/
def twiceWf (ep : List Nat) : Bool :=
  (List.range 4).all fun v => ep.count (v + 1) == 2

/-- A substitution table: four rows of four values in `{0,1,2,3}` (R150). -/
def sboxWf (rows : List (List Nat)) : Bool :=
  rows.length == 4 && rows.all fun row => row.length == 4 && row.all (fun v => decide (v ≤ 3))

end Sys2Proof
end

