-- ==== Sys2Proof/Config.lean ====
section
/-!
DEFINITION. The configuration record `TBL` (R8, R19), made so that an ill-formed one cannot be built
(R111, R112), the check that refuses an ill-formed table set, and the free values.

The default contents of the tables are in Sys2Proof/Machine/Tables.lean. The open parameters `LAT` and
`N_CORES` (R9) are arguments of Sys2Proof/Machine/Port.lean and Sys2Proof/Machine/System.lean.
-/

namespace Sys2Proof

/-- A permutation table of shape `n→m`: `m` positions, each a 1-based position into a source sequence of
length `n` (R111); values may repeat or be left out. -/
structure PermTable (n m : Nat) where
  /-- The entries, output position 1 first. -/
  entries : List Nat
  /-- R111: `m` entries, each in `[1, n]`. -/
  wf : permWf n m entries = true
  deriving DecidableEq, Repr

/-- A substitution table: a 4×4 grid of values 0 to 3 (R150). -/
structure SBox where
  /-- The rows, row 0 first; in a row, column 0 first. -/
  rows : List (List Nat)
  /-- R150: the shape and the range. -/
  wf : sboxWf rows = true
  deriving DecidableEq, Repr

/-- The configuration record `TBL` (R8), well-formed by construction (R111). -/
structure Tbl where
  P10 : PermTable 10 10
  P8 : PermTable 10 8
  IP : PermTable 8 8
  IPINV : PermTable 8 8
  EP : PermTable 4 8
  P4 : PermTable 4 4
  S0 : SBox
  S1 : SBox
  /-- IP and IPINV undo each other (R118). -/
  inverse : inverseWf IP.entries IPINV.entries = true
  /-- EP uses each source position exactly twice (R119). -/
  twice : twiceWf EP.entries = true
  deriving DecidableEq, Repr

/-- A table set as lists, not yet checked. -/
structure RawTbl where
  P10 : List Nat
  P8 : List Nat
  IP : List Nat
  IPINV : List Nat
  EP : List Nat
  P4 : List Nat
  S0 : List (List Nat)
  S1 : List (List Nat)
  deriving DecidableEq, Repr

/-- Every constraint a table set must meet to be a configuration of the core (R111, R118, R119, R150). -/
def RawTbl.wf (r : RawTbl) : Bool :=
  (permWf 10 10 r.P10 && permWf 10 8 r.P8 && permWf 8 8 r.IP && permWf 8 8 r.IPINV && permWf 4 8 r.EP
    && permWf 4 4 r.P4 && sboxWf r.S0 && sboxWf r.S1)
  && (inverseWf r.IP r.IPINV && twiceWf r.EP)

/-- Choosing the configuration: an ill-formed table set is refused (R112, R214), a well-formed one becomes
the record `TBL`. -/
def RawTbl.load (r : RawTbl) : Option Tbl :=
  if h : r.wf = true then
    some
      { P10 := ⟨r.P10, by simp only [RawTbl.wf, Bool.and_eq_true] at h; tauto⟩
        P8 := ⟨r.P8, by simp only [RawTbl.wf, Bool.and_eq_true] at h; tauto⟩
        IP := ⟨r.IP, by simp only [RawTbl.wf, Bool.and_eq_true] at h; tauto⟩
        IPINV := ⟨r.IPINV, by simp only [RawTbl.wf, Bool.and_eq_true] at h; tauto⟩
        EP := ⟨r.EP, by simp only [RawTbl.wf, Bool.and_eq_true] at h; tauto⟩
        P4 := ⟨r.P4, by simp only [RawTbl.wf, Bool.and_eq_true] at h; tauto⟩
        S0 := ⟨r.S0, by simp only [RawTbl.wf, Bool.and_eq_true] at h; tauto⟩
        S1 := ⟨r.S1, by simp only [RawTbl.wf, Bool.and_eq_true] at h; tauto⟩
        inverse := by simp only [RawTbl.wf, Bool.and_eq_true] at h; tauto
        twice := by simp only [RawTbl.wf, Bool.and_eq_true] at h; tauto }
  else none

/-- FREE VALUE: what KEY holds after the `n`-th reset of a run (R45, R241, U4; log entry 4). It has no body
anybody chose: a statement that mentions it holds for every value. -/
opaque Config.freeKey : Nat → Bits 10

/-- FREE VALUE: what K1 holds after the `n`-th reset of a run (R45, R241, U4; log entry 4). -/
opaque Config.freeK1 : Nat → Bits 8

/-- FREE VALUE: what K2 holds after the `n`-th reset of a run (R45, R241, U4; log entry 4). -/
opaque Config.freeK2 : Nat → Bits 8

end Sys2Proof
end

