-- ==== Sys2Proof/Machine/State.lean ====
section
/-!
DEFINITION. The state of one core as plain data, the responses, and the state after reset.
-/

namespace Sys2Proof.Machine

/-- Status of a response; the value 3 of the two bits is never generated (R85, U6). -/
inductive Status where
  /-- `00`: the command was performed. -/
  | ok
  /-- `01`: the command word is illegal; nothing was done. -/
  | invalidInput
  /-- `10`: ENCRYPT or DECRYPT with KV = 0; nothing was done. -/
  | keyNotLoaded
  deriving DecidableEq, Repr

/-- The two errors of the core (R210): what `raise E` may name (R18). -/
inductive CmdError where
  /-- Raised by any illegal command word (R211). -/
  | invalidInput
  /-- Raised by ENCRYPT and DECRYPT when KV = 0 (R213). -/
  | keyNotLoaded
  deriving DecidableEq, Repr

/-- A response: status and data (R19, R84). -/
structure Response where
  /-- `st` (R85). -/
  st : Status
  /-- `data` (R86). -/
  data : Bits 8
  deriving DecidableEq, Repr

/-- The architectural state of one core: exactly these four registers (R30). -/
structure Regs where
  /-- KEY: the master key; no command reads it (R31). -/
  key : Bits 10
  /-- K1: round subkey 1 (R32). -/
  k1 : Bits 8
  /-- K2: round subkey 2 (R33). -/
  k2 : Bits 8
  /-- KV: key valid (R35). -/
  kv : Bool
  deriving DecidableEq, Repr

/-- One core and what the host is about to do to it. -/
structure State where
  /-- The four registers (R30). -/
  regs : Regs
  /-- The response of the last step, if that step answered a command (R84, R253); the model's own field
  (log entry 2). -/
  rsp : Option Response
  /-- What the host does next, the next event first (R19, R248); the model's own field (log entry 1). -/
  host : List HostEvent
  /-- Picks the next free values (log entry 4); the model's own field. -/
  fresh : Nat
  deriving DecidableEq, Repr

/-- Why the machine stops with a fault: no such reason exists. Both errors of the core are responses, after
which it is ready for the next command (R215, R220, R221); it cannot hang (R253). Nobody raises one; safe
(log entry 10). -/
inductive Fault where
  deriving DecidableEq, Repr

/-- Why an instruction is refused. -/
inductive Refusal where
  /-- An instruction with no meaning yet, named by its mnemonic: raised only by a refused arm of `exec`. Every
  arm has its meaning, so nobody raises it; safe. -/
  | notModelled (mnemonic : String)
  deriving DecidableEq, Repr

/-- The registers right after reset: KV = 0 is the spec's (R45); the zeros of KEY, K1, K2 are DESIGN CHOICE:
the spec gives them no value (R45, R241; log entry 3; unsafe). -/
def Regs.reset : Regs := { key := 0#10, k1 := 0#8, k2 := 0#8, kv := false }

/-- The core right after reset: idle and ready (R243), no response pending, no event of the host yet (log
entries 1, 2, 3, 4). -/
def State.reset : State := { regs := Regs.reset, rsp := none, host := [], fresh := 0 }

end Sys2Proof.Machine
end

