-- ==== Sys2Proof/Machine/Operands.lean ====
section
/-!
DEFINITION. Bit sequences by position (R10 to R14), operands written in the source's list notation (R96),
and the assembly of response words (R84, R85, R89).
-/

namespace Sys2Proof.Machine

/-- `s(i)`: the bit at position `i`, `1 ≤ i ≤ n`, position 1 first (R10). DESIGN CHOICE outside `1..n`, where the spec has
no position (R10, R64): position 0 reads position 1, a position above `n` reads 0 (log entry 12; safe, never reached). -/
def pos {n : Nat} (s : Bits n) (i : Nat) : Bool := s.getMsbD (i - 1)

/-- The sequence of length `n` whose position `i` is `f i`, for `i = 1..n` (R10). -/
def ofPos : (n : Nat) → (Nat → Bool) → Bits n
  | 0, _ => 0#0
  | n + 1, f => BitVec.cons (f 1) (ofPos n fun i => f (i + 1))

/-- `s(i .. i+len-1)`: the `len` positions that start at position `i`, `1 ≤ i` (R10, R11); outside `1..n` as `pos`
(log entry 12). -/
def slice {n : Nat} (i len : Nat) (s : Bits n) : Bits len :=
  ofPos len fun j => pos s (i + j - 1)

/-- A bit as a number, for the index computations `2·a + b` (R20 (b)). -/
def bitVal (b : Bool) : Nat := if b then 1 else 0

/-- A list in the source's notation, position 1 first (R96), as a sequence of exactly `n` bits; a list of another
length, or with an element other than 0 and 1, is no operand (R67, R212). -/
def ofDigits (n : Nat) (l : List Nat) : Option (Bits n) :=
  if seqWf n l then some (ofPos n fun i => l.getD (i - 1) 0 == 1) else none

/-- A sequence in the source's notation, position 1 first (R96). -/
def toDigits {n : Nat} (s : Bits n) : List Nat :=
  (List.range n).map fun i => bitVal (pos s (i + 1))

/-- The code of a status in `st` (R85). -/
def Status.code : Status → Bits 2
  | .ok => 0b00#2
  | .invalidInput => 0b01#2
  | .keyNotLoaded => 0b10#2

/-- The status of an error's response (R210). -/
def CmdError.status : CmdError → Status
  | .invalidInput => .invalidInput
  | .keyNotLoaded => .keyNotLoaded

/-- The response word: `st = rsp[9:8]`, `data = rsp[7:0]` (R84, R89). -/
def Response.word (r : Response) : RspWord := (r.st.code ++ r.data : BitVec (2 + 8))

/-- The response a word stands for; none for `st = 11`, which is never generated (R85). -/
def Response.ofWord (w : RspWord) : Option Response :=
  let data := w.extractLsb' 0 8
  let st := w.extractLsb' 8 2
  if st = 0b00#2 then some ⟨.ok, data⟩
  else if st = 0b01#2 then some ⟨.invalidInput, data⟩
  else if st = 0b10#2 then some ⟨.keyNotLoaded, data⟩
  else none

end Sys2Proof.Machine
end

