-- ==== Sys2Proof/Machine/Permutation.lean ====
section
/-!
DEFINITION. The bit-permutation engine (40_permutation_engine.md).
-/

namespace Sys2Proof.Machine

/-- `table(j)`: the `j`-th entry of the table, `j` counted from 1 (R110). DESIGN CHOICE outside `1..m`, where the spec has
no entry: `j = 0` reads entry 1, `j` above `m` reads 0 (log entry 12; safe, never reached). -/
def tableEntry {n m : Nat} (table : PermTable n m) (j : Nat) : Nat :=
  table.entries.getD (j - 1) 0

/-- `permute(source, table)(j) = source(table(j))` for `j = 1..m` (R110). -/
def permute {n m : Nat} (source : Bits n) (table : PermTable n m) : Bits m :=
  ofPos m fun j => pos source (tableEntry table j)

end Sys2Proof.Machine
end

