-- ==== Sys2Proof/Machine/Substitution.lean ====
section
/-!
DEFINITION. The substitution function (42_substitution.md).
-/

namespace Sys2Proof.Machine

/-- Row index, the outer bits: `2 * h(1) + h(4)` (R151 step 1). -/
def sboxRow (h : Bits 4) : Nat := 2 * bitVal (pos h 1) + bitVal (pos h 4)

/-- Column index, the inner bits: `2 * h(2) + h(3)` (R151 step 2). -/
def sboxCol (h : Bits 4) : Nat := 2 * bitVal (pos h 2) + bitVal (pos h 3)

/-- `T(row, col)`, both counted from 0 (R150). DESIGN CHOICE for a row or column above 3: it reads 0 (log entry 12; safe,
never reached, R153). -/
def sboxValue (t : SBox) (row col : Nat) : Nat :=
  (t.rows.getD row []).getD col 0

/-- `sbox(h, T) = bits_2(T(row, col))` (R151, R152). -/
def sbox (h : Bits 4) (t : SBox) : Bits 2 :=
  BitVec.ofNat 2 (sboxValue t (sboxRow h) (sboxCol h))

end Sys2Proof.Machine
end

