-- ==== Sys2Proof/Machine/Round.lean ====
section
/-!
DEFINITION. The round function (43_round_function.md).
-/

namespace Sys2Proof.Machine

/-- The left half of an 8-bit sequence, positions 1..4 (R168, R181). -/
def left4 (p : Bits 8) : Bits 4 := slice 1 4 p

/-- The right half of an 8-bit sequence, positions 5..8 (R168, R181). -/
def right4 (p : Bits 8) : Bits 4 := slice 5 4 p

/-- The four steps of the round function: expand, mix, substitute, permute (R165 to R169). -/
def feistel (T : Tbl) (half : Bits 4) (subkey : Bits 8) : Bits 4 :=
  let expanded : Bits 8 := permute half T.EP
  let mixed : Bits 8 := expanded ^^^ subkey
  let l4 : Bits 4 := left4 mixed
  let r4 : Bits 4 := right4 mixed
  let sOut : Bits 4 := (sbox l4 T.S0 ++ sbox r4 T.S1 : BitVec (2 + 2))
  permute sOut T.P4

end Sys2Proof.Machine
end

