-- ==== Sys2Proof/Machine/Cipher.lean ====
section
/-!
DEFINITION. The two-round datapath (44_cipher_core.md): encryption and decryption are one function with the
subkeys in opposite order.
-/

namespace Sys2Proof.Machine

/-- The two-round datapath with first-round subkey `ka` and second-round subkey `kb`: a swap after round 1,
none after round 2 (R180 to R184, R188). -/
def cipher (T : Tbl) (block ka kb : Bits 8) : Bits 8 :=
  let ip : Bits 8 := permute block T.IP
  let l0 : Bits 4 := left4 ip
  let r0 : Bits 4 := right4 ip
  let f1 : Bits 4 := feistel T r0 ka
  let l1 : Bits 4 := l0 ^^^ f1
  let left : Bits 4 := r0
  let right : Bits 4 := l1
  let f2 : Bits 4 := feistel T right kb
  let newLeft : Bits 4 := left ^^^ f2
  permute (newLeft ++ right : BitVec (4 + 4)) T.IPINV

/-- `encrypt(plaintext) = cipher(plaintext, K1, K2)` (R185). -/
def encrypt (T : Tbl) (r : Regs) (plaintext : Bits 8) : Bits 8 := cipher T plaintext r.k1 r.k2

/-- `decrypt(ciphertext) = cipher(ciphertext, K2, K1)` (R186). -/
def decrypt (T : Tbl) (r : Regs) (ciphertext : Bits 8) : Bits 8 := cipher T ciphertext r.k2 r.k1

end Sys2Proof.Machine
end

