-- ==== Sys2Proof/Machine/Flags.lean ====
section
/-!
DEFINITION. The one flag of the core, KV (R35). There are no condition codes.
-/

namespace Sys2Proof.Machine

/-- Reading KV: the registers hold a key (R35); the test of ENCRYPT and DECRYPT. -/
def keyValid (r : Regs) : Bool := r.kv

/-- `KV <- 1`, done by LOADKEY alone (R35, R137). -/
def setKeyValid (r : Regs) : Regs := { r with kv := true }

/-- `KV <- 0`, done by reset alone (R35, R240). -/
def clearKeyValid (r : Regs) : Regs := { r with kv := false }

end Sys2Proof.Machine
end

