-- ==== Sys2Proof/Machine/Ops.lean ====
section
/-!
DEFINITION. The shared operations over the registers and the two ports: raising an error, writing an
instance, answering a command, reset, taking the host's next event.

RAISING AN ERROR is the core's whole exception mechanism: `raiseError` (R18, R216). It saves nothing, changes no
mode and goes nowhere (R220). There is no return from it: the core is ready for the next command at once
(R221, R222).
-/

namespace Sys2Proof.Machine

/-- `raise E`: the command ends, no register is written, the response carries the code of `E` and data 0x00
(R18, R86, R216). -/
def raiseError (e : CmdError) (r : Regs) : Regs × Response :=
  (r, { st := e.status, data := 0x00#8 })

/-- `respond (st = OK, data = d)` with the registers `r` (R86). -/
def respondOk (d : Bits 8) (r : Regs) : Regs × Response :=
  (r, { st := .ok, data := d })

/-- `KEY <- k ; K1 <- a ; K2 <- b ; KV <- 1`, one atomic update (R68, R137). -/
def writeInstance (k : Bits 10) (a b : Bits 8) (r : Regs) : Regs :=
  setKeyValid { r with key := k, k1 := a, k2 := b }

/-- The core answers a command: the registers and the response of that command become the core's (R71, R253). -/
def answer (p : Regs × Response) (s : State) : State :=
  { s with regs := p.1, rsp := some p.2 }

/-- Nothing is presented: the core is idle and keeps its registers (R229); no response is valid (R255). -/
def idle (s : State) : State := { s with rsp := none }

/-- Reset (R240): KV is cleared, and KEY, K1, K2 hold no value: a FREE VALUE each (R241, U4; log entry 4). There
is no response (R242). -/
def resetCore (s : State) : State :=
  { s with
    regs := clearKeyValid
      { key := Config.freeKey s.fresh, k1 := Config.freeK1 s.fresh, k2 := Config.freeK2 s.fresh, kv := s.regs.kv }
    rsp := none
    fresh := s.fresh + 1 }

/-- Answering an illegal word: `InvalidInput`, nothing else changed (R91, R92, R211). -/
def answerIllegal (s : State) : State := answer (raiseError .invalidInput s.regs) s

/-- The host presents a word before anything else it is about to do. -/
def present (w : CmdWord) (s : State) : State := { s with host := .command w :: s.host }

/-- The host's first event is taken off (R248: one at a time, in order). -/
def dropEvent (s : State) : State := { s with host := s.host.tail }

end Sys2Proof.Machine
end

