-- ==== Sys2Proof/Machine/Tables.lean ====
section
/-!
DEFINITION. The default contents of the eight tables (R121, R154, R155), which the executable core uses.

PRESUMED: the spec supplies these entries from general knowledge (93_implementation_defined.md G1; log entry 5;
unsafe for hardware with other tables). Every function of the datapath takes the table set as an argument.
-/

namespace Sys2Proof.Machine

/-- Default P10 (R115, R121). -/
def tableP10 : PermTable 10 10 := ⟨[3, 5, 2, 7, 4, 10, 1, 9, 8, 6], by decide⟩

/-- Default P8 (R116, R121). -/
def tableP8 : PermTable 10 8 := ⟨[6, 3, 7, 4, 8, 5, 10, 9], by decide⟩

/-- Default IP (R117, R121). -/
def tableIP : PermTable 8 8 := ⟨[2, 6, 3, 1, 4, 8, 5, 7], by decide⟩

/-- Default IPINV (R118, R121). -/
def tableIPINV : PermTable 8 8 := ⟨[4, 1, 3, 5, 7, 2, 8, 6], by decide⟩

/-- Default EP (R119, R121). -/
def tableEP : PermTable 4 8 := ⟨[4, 1, 2, 3, 2, 3, 4, 1], by decide⟩

/-- Default P4 (R120, R121). -/
def tableP4 : PermTable 4 4 := ⟨[2, 4, 3, 1], by decide⟩

/-- Default S0 (R154). -/
def tableS0 : SBox := ⟨[[1, 0, 3, 2], [3, 2, 1, 0], [0, 2, 1, 3], [3, 1, 3, 2]], by decide⟩

/-- Default S1 (R155). -/
def tableS1 : SBox := ⟨[[0, 1, 2, 3], [2, 0, 1, 3], [3, 0, 1, 0], [2, 1, 0, 3]], by decide⟩

/-- The default `TBL` (R8, R121). -/
def tables : Tbl :=
  { P10 := tableP10, P8 := tableP8, IP := tableIP, IPINV := tableIPINV, EP := tableEP, P4 := tableP4
    S0 := tableS0, S1 := tableS1, inverse := by decide, twice := by decide }

end Sys2Proof.Machine
end

