-- ==== Sys2Proof/Machine/BlockCommand.lean ====
section
/-!
DEFINITION. Format B: the meanings of ENCRYPT (R189) and DECRYPT (R190). The check of the pad is the decoder's
(step 0 of both rules).
-/

namespace Sys2Proof.Machine

/-- ENCRYPT under the table set `T`: `KeyNotLoaded` when KV = 0, else the block ciphered with K1 then K2; no
register is written (R189). -/
def encryptBlock (T : Tbl) (b : Bits 8) (r : Regs) : Regs × Response :=
  if keyValid r then respondOk (encrypt T r b) r else raiseError .keyNotLoaded r

/-- DECRYPT under the table set `T`: `KeyNotLoaded` when KV = 0, else the block ciphered with K2 then K1; no
register is written (R190). -/
def decryptBlock (T : Tbl) (b : Bits 8) (r : Regs) : Regs × Response :=
  if keyValid r then respondOk (decrypt T r b) r else raiseError .keyNotLoaded r

/-- ENCRYPT (R189). -/
def execEncrypt (b : Bits 8) (s : State) : Host.Outcome State Fault Refusal :=
  .next (answer (encryptBlock tables b s.regs) s)

/-- DECRYPT (R190). -/
def execDecrypt (b : Bits 8) (s : State) : Host.Outcome State Fault Refusal :=
  .next (answer (decryptBlock tables b s.regs) s)

end Sys2Proof.Machine
end

