-- ==== Sys2Proof/Machine/KeySchedule.lean ====
section
/-!
DEFINITION. The key schedule (41_key_schedule.md): rotation and subkey generation.
-/

namespace Sys2Proof.Machine

/-- Left-circular rotation: `rotate(h, r)(i) = h(((i - 1 + r mod n) mod n) + 1)` (R131). -/
def rotate {n : Nat} (h : Bits n) (r : Nat) : Bits n :=
  ofPos n fun i => pos h ((i - 1 + r % n) % n + 1)

/-- The left half of a 10-bit sequence, positions 1..5 (R130). -/
def left5 (p : Bits 10) : Bits 5 := slice 1 5 p

/-- The right half of a 10-bit sequence, positions 6..10 (R130). -/
def right5 (p : Bits 10) : Bits 5 := slice 6 5 p

/-- The six steps of subkey generation (R133). -/
def generateKeys (T : Tbl) (master : Bits 10) : Bits 8 × Bits 8 :=
  let p : Bits 10 := permute master T.P10
  let left0 : Bits 5 := left5 p
  let right0 : Bits 5 := right5 p
  let left1 : Bits 5 := rotate left0 1
  let right1 : Bits 5 := rotate right0 1
  let k1 : Bits 8 := permute (left1 ++ right1 : BitVec (5 + 5)) T.P8
  let left2 : Bits 5 := rotate left1 2
  let right2 : Bits 5 := rotate right1 2
  let k2 : Bits 8 := permute (left2 ++ right2 : BitVec (5 + 5)) T.P8
  (k1, k2)

end Sys2Proof.Machine
end

