-- ==== Sys2Proof/Machine/KeyCommand.lean ====
section
/-!
DEFINITION. Format K: the meaning of LOADKEY (R137, R138).
-/

namespace Sys2Proof.Machine

/-- LOADKEY under the table set `T`: the key schedule runs, all four registers are written together, the
response is (OK, 0x00) whatever KV was (R137, R138). -/
def loadKey (T : Tbl) (k : Bits 10) (r : Regs) : Regs × Response :=
  let keys := generateKeys T k
  respondOk 0x00#8 (writeInstance k keys.1 keys.2 r)

/-- LOADKEY (R137). -/
def execLoadkey (k : Bits 10) (s : State) : Host.Outcome State Fault Refusal :=
  .next (answer (loadKey tables k s.regs) s)

end Sys2Proof.Machine
end

