-- ==== Sys2Proof/Machine/Dispatch.lean ====
section
/-!
DEFINITION. The meaning of every command: one arm per constructor of Instr.
-/

namespace Sys2Proof.Machine

def exec (i : Instr) (s : State) : Host.Outcome State Fault Refusal :=
  match i with
  | .loadkey k => Sys2Proof.Machine.execLoadkey k s
  | .encrypt b => Sys2Proof.Machine.execEncrypt b s
  | .decrypt b => Sys2Proof.Machine.execDecrypt b s

end Sys2Proof.Machine
end

