-- ==== Sys2Proof/Machine/Command.lean ====
section
/-!
DEFINITION. One whole command: the spec's `step : Config → State → Command → State × Response` (R19) over the
registers, and what one event of the host does to the core.
-/

namespace Sys2Proof.Machine

/-- The spec's `step` (R19): the meaning of every command, total on all arguments, for any table set. -/
def perform (T : Tbl) (r : Regs) : Command → Regs × Response
  | .legal (.loadkey k) => loadKey T k r
  | .legal (.encrypt b) => encryptBlock T b r
  | .legal (.decrypt b) => decryptBlock T b r
  | .illegal => raiseError .invalidInput r

/-- An accepted word: decode first (R217), then the command's meaning, or `InvalidInput` (R211). -/
def performWord (w : CmdWord) (s : State) : Host.Outcome State Fault Refusal :=
  match decode w with
  | .ok i => exec i s
  | .error _ => .next (answerIllegal s)

/-- One event of the host, already taken off the list. -/
def performEvent (e : HostEvent) (s : State) : Host.Outcome State Fault Refusal :=
  match e with
  | .command w => performWord w s
  | .reset => .next (resetCore s)

/-- The next event of the host is taken and performed; with none, the core idles (R229, R248). -/
def takeEvent (s : State) : Host.Outcome State Fault Refusal :=
  match s.host with
  | [] => .next (idle s)
  | e :: _ => performEvent e (dropEvent s)

/-- The word of the table's bits is presented as the host's next event; a value with a bit above wire 11 cannot be
presented (R67, R81), and with `nbits` below 12 the wires left out carry 0 (DESIGN CHOICE, as `decodeTableWord`; log
entry 6). -/
def presentTableWord (nbits w : Nat) (s : State) : State :=
  if w % 2 ^ nbits < 4096 then present (BitVec.ofNat 12 (w % 2 ^ nbits)) s else s

end Sys2Proof.Machine
end

