-- ==== Sys2Proof/Machine/Step.lean ====
section
/-!
DEFINITION. One step of the core: one event of the host, whole (R19, R68, R71).
-/

namespace Sys2Proof.Machine

/-- One step: the host's next event, performed whole; the core idles when there is none. -/
def step (s : State) : Host.Outcome State Fault Refusal := takeEvent s

/-- The host presents the instruction with the table's bits `w` as its next event (log entry 6). -/
def State.withFetchWord (s : State) (nbits w : Nat) : State := presentTableWord nbits w s

end Sys2Proof.Machine
end

