-- ==== Sys2Proof/Machine/Assembler.lean ====
section
/-!
DEFINITION. The textual form of commands (R95, R97): what a program listing says the host presents. Log entry 11 names the
details R95 leaves open.
-/

namespace Sys2Proof.Machine

/-- A space or a tab, which separates a mnemonic from its operand. -/
def isBlank (c : Char) : Bool := c == ' ' || c == '\t'

/-- The pieces of a line between blanks, empty ones included. -/
def splitBlanks : List Char → List (List Char)
  | [] => [[]]
  | c :: cs =>
    if isBlank c then [] :: splitBlanks cs
    else match splitBlanks cs with
      | w :: ws => (c :: w) :: ws
      | [] => [[c]]

/-- The words of a line; a `;` starts a comment to the end of the line (R95). -/
def lineWords (line : List Char) : List (List Char) :=
  (splitBlanks (line.takeWhile (· != ';'))).filter (fun w => !w.isEmpty)

/-- A digit of an operand: only 0 and 1 are digits (R95); another character counts as 2, which no operand may hold. -/
def digitOf (c : Char) : Nat := if c == '0' then 0 else if c == '1' then 1 else 2

/-- An operand: exactly `n` digits, position 1 leftmost (R10, R95). -/
def parseBits (n : Nat) (l : List Char) : Option (Bits n) := ofDigits n (l.map digitOf)

/-- The value of a hexadecimal digit. -/
def hexDigit (c : Char) : Option Nat :=
  let v := c.toNat
  if 48 ≤ v ∧ v ≤ 57 then some (v - 48)
  else if 65 ≤ v ∧ v ≤ 70 then some (v - 55)
  else if 97 ≤ v ∧ v ≤ 102 then some (v - 87)
  else none

/-- The value of hexadecimal digits, most significant first, after what was read so far. -/
def hexValue : Nat → List Char → Option Nat
  | acc, [] => some acc
  | acc, c :: cs =>
    match hexDigit c with
    | some d => hexValue (16 * acc + d) cs
    | none => none

/-- A raw word `0x…` of at most twelve bits (R95). DESIGN CHOICE: only the hexadecimal form of R95's example is read; a raw
word in the binary form `0b…`, the other form R15 writes words in, is a syntax error (log entry 11). -/
def parseRaw : List Char → Option CmdWord
  | '0' :: 'x' :: c :: cs =>
    match hexValue 0 (c :: cs) with
    | some v => if v < 4096 then some (BitVec.ofNat 12 v) else none
    | none => none
  | _ => none

/-- The mnemonics and directives of R95, as written. -/
def textLoadkey : List Char := ['L', 'O', 'A', 'D', 'K', 'E', 'Y']
/-- See `textLoadkey`. -/
def textEncrypt : List Char := ['E', 'N', 'C', 'R', 'Y', 'P', 'T']
/-- See `textLoadkey`. -/
def textDecrypt : List Char := ['D', 'E', 'C', 'R', 'Y', 'P', 'T']
/-- See `textLoadkey`. -/
def textWord : List Char := ['.', 'w', 'o', 'r', 'd']
/-- See `textLoadkey`. -/
def textReset : List Char := ['R', 'E', 'S', 'E', 'T']

/-- One line: none is a syntax error, which produces no word (R95); an empty or comment line gives no event. -/
def assembleLine (line : List Char) : Option (List HostEvent) :=
  match lineWords line with
  | [] => some []
  | [w] => if w = textReset then some [.reset] else none
  | [w, a] =>
    if w = textLoadkey then (parseBits 10 a).map fun k => [.command (encode (.loadkey k))]
    else if w = textEncrypt then (parseBits 8 a).map fun b => [.command (encode (.encrypt b))]
    else if w = textDecrypt then (parseBits 8 a).map fun b => [.command (encode (.decrypt b))]
    else if w = textWord then (parseRaw a).map fun r => [.command r]
    else none
  | _ => none

/-- A listing, line by line; one bad line refuses it. -/
def assemble : List (List Char) → Option (List HostEvent)
  | [] => some []
  | l :: ls =>
    match assembleLine l, assemble ls with
    | some es, some rest => some (es ++ rest)
    | _, _ => none

/-- The digits of a sequence, position 1 leftmost (R10). -/
def printBits {n : Nat} (s : Bits n) : List Char :=
  (List.range n).map fun i => if pos s (i + 1) then '1' else '0'

/-- The textual form of a command: its mnemonic, a space, its operand (R95). -/
def printInstr : Instr → List Char
  | .loadkey k => textLoadkey ++ ' ' :: printBits k
  | .encrypt b => textEncrypt ++ ' ' :: printBits b
  | .decrypt b => textDecrypt ++ ' ' :: printBits b

end Sys2Proof.Machine
end

