-- ==== Sys2Proof/Machine/InstanceView.lean ====
section
/-!
DEFINITION. The spec's other form of the state, `Option Instance` (R46), in which an unwritten subkey cannot be read
at all, with the commands and the reset over it. A statement of the model says that the four registers
refine it.
-/

namespace Sys2Proof.Machine

/-- What the registers hold from one LOADKEY to the next or to reset (R37, R46). -/
structure Instance where
  key : Bits 10
  k1 : Bits 8
  k2 : Bits 8
  deriving DecidableEq, Repr

/-- The registers seen as `Option Instance`: none while KV = 0 (R46). -/
def Regs.view (r : Regs) : Option Instance :=
  if r.kv then some { key := r.key, k1 := r.k1, k2 := r.k2 } else none

/-- The commands over `Option Instance` (R46, R47, R86). -/
def performView (T : Tbl) (o : Option Instance) : Command → Option Instance × Response
  | .legal (.loadkey k) =>
    (some { key := k, k1 := (generateKeys T k).1, k2 := (generateKeys T k).2 }, { st := .ok, data := 0#8 })
  | .legal (.encrypt b) =>
    match o with
    | none => (none, { st := .keyNotLoaded, data := 0#8 })
    | some i => (some i, { st := .ok, data := cipher T b i.k1 i.k2 })
  | .legal (.decrypt b) =>
    match o with
    | none => (none, { st := .keyNotLoaded, data := 0#8 })
    | some i => (some i, { st := .ok, data := cipher T b i.k2 i.k1 })
  | .illegal => (o, { st := .invalidInput, data := 0#8 })

/-- Reset over `Option Instance`: none, whatever the state before (R240). -/
def resetView (_ : Option Instance) : Option Instance := none

/-- The instance the events of the host leave. -/
def viewAfter (T : Tbl) : Option Instance → List HostEvent → Option Instance
  | o, [] => o
  | o, .reset :: es => viewAfter T (resetView o) es
  | o, .command w :: es => viewAfter T (performView T o (decodeCommand w)).1 es

/-- The responses to the events of the host, one per command, none for a reset (R71, R242). -/
def viewTrace (T : Tbl) : Option Instance → List HostEvent → List (Option Response)
  | _, [] => []
  | o, .reset :: es => none :: viewTrace T (resetView o) es
  | o, .command w :: es =>
    some (performView T o (decodeCommand w)).2 :: viewTrace T (performView T o (decodeCommand w)).1 es

end Sys2Proof.Machine
end

