-- ==== Sys2Proof/Machine/Port.lean ====
section
/-!
DEFINITION. The signal-level interface, clock cycle by clock cycle (R255): the valid/ready handshake (R248), the latency
`LAT` (R252 to R254), and reset with a command in flight (R242). One cycle performs at most one step of the core.

A pin group with its valid signal is an `Option`: `cmd` is none when `cmd_valid` is 0, `rsp` is none when `rsp_valid` is 0,
so a value that must not be read cannot be read (R255, U5). The conventions of this layer are log entries 7 and 8.
-/

namespace Sys2Proof.Machine

/-- What an implementation of the port fixes. -/
structure PortConfig where
  /-- `LAT` by kind of command: finite, perhaps 0, the same for all operand values (R252, R254). -/
  lat : CmdKind → Nat
  /-- Whether `cmd_ready` is already 1 in the cycle of a response (R255 leaves "until" open; log entry 8). -/
  overlap : Bool
  /-- With such an overlap no command answers in its cycle of acceptance: the response port carries one response a
  cycle (R255). -/
  overlapOk : overlap = true → ∀ k, 1 ≤ lat k

/-- The inputs of one cycle: `rst`, and `cmd` with `cmd_valid` (R255). -/
structure Pins where
  rst : Bool
  cmd : Option CmdWord
  deriving DecidableEq, Repr

/-- The outputs of one cycle: `cmd_ready`, and `rsp` with `rsp_valid` (R255). -/
structure PortOut where
  ready : Bool
  rsp : Option RspWord
  deriving DecidableEq, Repr

/-- An accepted command not yet answered, with the cycles left before the one that answers it (R43, R252). -/
structure InFlight where
  word : CmdWord
  left : Nat
  deriving DecidableEq, Repr

/-- The core behind its port; at most one command in flight (R248). -/
structure PortState where
  core : State
  flight : Option InFlight
  deriving DecidableEq, Repr

/-- After reset: the core after reset, nothing in flight (R242, R243). -/
def PortState.reset : PortState := { core := State.reset, flight := none }

/-- `LAT` of a command word (R252). -/
def latOf (c : PortConfig) (w : CmdWord) : Nat := c.lat (decodeCommand w).kind

/-- `cmd_ready`: the core is idle (R248, R255) and reset is not asserted (R218). -/
def portReady (c : PortConfig) (p : PortState) (i : Pins) : Bool :=
  !i.rst && match p.flight with
    | none => true
    | some f => c.overlap && f.left == 0

/-- The word accepted in this cycle: presented while the core is ready (R255). -/
def accepted (c : PortConfig) (p : PortState) (i : Pins) : Option CmdWord :=
  if portReady c p i then i.cmd else none

/-- The word whose response is due in this cycle. -/
def due (p : PortState) : Option CmdWord :=
  match p.flight with
  | some f => if f.left = 0 then some f.word else none
  | none => none

/-- What the core does in this cycle: reset first (R218), else the command that is due, else a command accepted with
`LAT = 0`, else nothing. -/
def cycleEvent (c : PortConfig) (p : PortState) (i : Pins) : Option HostEvent :=
  if i.rst then some .reset
  else match due p with
    | some w => some (.command w)
    | none =>
      match accepted c p i with
      | some w => if latOf c w = 0 then some (.command w) else none
      | none => none

/-- The command in flight after this cycle; reset discards it (R242). -/
def flightAfter (c : PortConfig) (p : PortState) (i : Pins) : Option InFlight :=
  if i.rst then none
  else match accepted c p i with
    | some w => if latOf c w = 0 then none else some { word := w, left := latOf c w - 1 }
    | none =>
      match p.flight with
      | some f => if f.left = 0 then none else some { word := f.word, left := f.left - 1 }
      | none => none

/-- One step of the core with this one event of the host, or with none. -/
def stepWith (e : Option HostEvent) (s : State) : State :=
  match step { s with host := e.toList } with
  | .next t => t
  | .fault _ => s
  | .refused _ => s

/-- One clock cycle. -/
def clock (c : PortConfig) (p : PortState) (i : Pins) : PortState × PortOut :=
  let core := stepWith (cycleEvent c p i) p.core
  ({ core := core, flight := flightAfter c p i },
    { ready := portReady c p i, rsp := core.rsp.map Response.word })

/-- The port after a sequence of cycles. -/
def portAfter (c : PortConfig) : PortState → List Pins → PortState
  | p, [] => p
  | p, i :: is => portAfter c (clock c p i).1 is

/-- The outputs over a sequence of cycles. -/
def portOuts (c : PortConfig) : PortState → List Pins → List PortOut
  | _, [] => []
  | p, i :: is => (clock c p i).2 :: portOuts c (clock c p i).1 is

/-- What the core did over a sequence of cycles, in order. -/
def portEvents (c : PortConfig) : PortState → List Pins → List HostEvent
  | _, [] => []
  | p, i :: is => (cycleEvent c p i).toList ++ portEvents c (clock c p i).1 is

/-- The words accepted over a sequence of cycles, in order. -/
def portAccepted (c : PortConfig) : PortState → List Pins → List CmdWord
  | _, [] => []
  | p, i :: is => (accepted c p i).toList ++ portAccepted c (clock c p i).1 is

end Sys2Proof.Machine
end

