-- ==== Sys2Proof/Machine/System.lean ====
section
/-!
DEFINITION. Several cores (R225, R74): `N_CORES` independent cores, each with its own registers, ports and reset; they share
only the constant tables. Which core steps next is the schedule, any list of core numbers.
-/

namespace Sys2Proof.Machine

/-- A system of `n` cores; `n` is `N_CORES` (R9, R225). -/
abbrev System (n : Nat) := Vector State n

/-- Core `i` takes one step; no other core is touched (R225). -/
def stepCore {n : Nat} (sys : System n) (i : Fin n) : System n :=
  match step sys[i] with
  | .next t => sys.set i t
  | .fault _ => sys
  | .refused _ => sys

/-- The system after the steps of a schedule, in order. -/
def runSchedule {n : Nat} : System n → List (Fin n) → System n
  | sys, [] => sys
  | sys, i :: is => runSchedule (stepCore sys i) is

end Sys2Proof.Machine
end

