-- ==== Sys2Proof/Safety.lean ====
section
/-!
DEFINITION. What counts as a good state and a safe run, in the terms the statements use.
-/

namespace Sys2Proof.Machine

/-- The subkeys of a loaded key are those the key schedule derives from it, under the table set `T` (R36). -/
def Consistent (T : Tbl) (r : Regs) : Prop :=
  r.kv = true → (r.k1, r.k2) = generateKeys T r.key

/-- A response that carries no block carries data 0x00 (R86, R216). -/
def Response.Quiet (r : Response) : Prop := r.st ≠ .ok → r.data = 0x00#8

/-- The invariant of the core: consistent subkeys (R36), and a response that fits: an error carries no data (R86, R216),
`KeyNotLoaded` is answered only where KV = 0 (R213). -/
structure CoreInv (s : State) : Prop where
  consistent : Consistent tables s.regs
  quiet : ∀ r, s.rsp = some r → r.Quiet
  noKey : ∀ r, s.rsp = some r → r.st = .keyNotLoaded → s.regs.kv = false

/-- Two states that no sequence of host events can tell apart: the host does the same to both, and they hold the same
subkeys where any are held (R31, R45). -/
structure SameToHost (s t : State) : Prop where
  host : s.host = t.host
  kv : s.regs.kv = t.regs.kv
  k1 : s.regs.kv = true → s.regs.k1 = t.regs.k1
  k2 : s.regs.kv = true → s.regs.k2 = t.regs.k2

/-- `n` steps, stopping at the first that gives no next state: `core.run` on the machine's own types (see
`Laws.core_run_eq`). -/
def run : Nat → State → Host.Outcome State Fault Refusal
  | 0, s => .next s
  | n + 1, s =>
    match step s with
    | .next t => run n t
    | .fault f => .fault f
    | .refused r => .refused r

/-- What the response port shows over `n` steps; the list ends early where a step gives no next state. -/
def rspTrace : Nat → State → List (Option Response)
  | 0, _ => []
  | n + 1, s =>
    match step s with
    | .next t => t.rsp :: rspTrace n t
    | .fault _ => []
    | .refused _ => []

/-- A safe run: `n` steps, none of which stops. -/
def SafeRun (n : Nat) (s : State) : Prop := ∃ t, run n s = .next t

end Sys2Proof.Machine
end

