-- ==== Sys2Proof/Certificates/Slice0/Obligations.lean ====
section
/-!
DEFINITION. The statements for the provers. Every docstring names the rule or the section of spec/ it comes from.

No statement rests on the values log entries 3 and 4 name (KEY, K1, K2 while KV = 0). Statements about the default tables
say so; they rest on log entry 5. That the host's next word or reset is the head of the list `host`, and a step's response
the field `rsp`, are the model's own forms (log entries 1 and 2).
-/

open Sys2Proof Sys2Proof.Machine

/-! ## Encoding -/

/-- R90, R93: decoding the word of a command gives the command, every operand at every value. -/
def Obligations.DecodeOfEncode : Prop :=
  ∀ i : Instr, decode (encode i) = .ok i

/-- R90, R93: a legal word is the word of the command it decodes to: no bit of it is dropped. -/
def Obligations.EncodeOfDecode : Prop :=
  ∀ (w : CmdWord) (i : Instr), decode w = .ok i → encode i = w

/-- R90: a word is the command of a row exactly when `(w AND mask) = match`, and the three rows are disjoint. -/
def Obligations.OpcodeMapRows : Prop :=
  ∀ w : CmdWord,
    ((∃ k, decode w = .ok (.loadkey k)) ↔ w &&& 0xC00#12 = 0x400#12) ∧
    ((∃ b, decode w = .ok (.encrypt b)) ↔ w &&& 0xF00#12 = 0x800#12) ∧
    ((∃ b, decode w = .ok (.decrypt b)) ↔ w &&& 0xF00#12 = 0xC00#12) ∧
    ¬(w &&& 0xC00#12 = 0x400#12 ∧ w &&& 0xF00#12 = 0x800#12) ∧
    ¬(w &&& 0xC00#12 = 0x400#12 ∧ w &&& 0xF00#12 = 0xC00#12) ∧
    ¬(w &&& 0xF00#12 = 0x800#12 ∧ w &&& 0xF00#12 = 0xC00#12) ∧
    (wordWf w = true ↔ ∃ i, decode w = .ok i)

/-- R93: which words decode to which command, by their numbers, and how many there are of each kind. -/
def Obligations.DecoderTotalByRanges : Prop :=
  (∀ w : CmdWord,
    ((∃ k, decode w = .ok (.loadkey k)) ↔ 0x400 ≤ w.toNat ∧ w.toNat ≤ 0x7FF) ∧
    ((∃ b, decode w = .ok (.encrypt b)) ↔ 0x800 ≤ w.toNat ∧ w.toNat ≤ 0x8FF) ∧
    ((∃ b, decode w = .ok (.decrypt b)) ↔ 0xC00 ≤ w.toNat ∧ w.toNat ≤ 0xCFF) ∧
    (decode w = .error .opZero ↔ w.toNat ≤ 0x3FF) ∧
    (decode w = .error .padNonzero ↔
      0x900 ≤ w.toNat ∧ w.toNat ≤ 0xBFF ∨ 0xD00 ≤ w.toNat ∧ w.toNat ≤ 0xFFF)) ∧
  ((Finset.univ : Finset (Fin 4096)).filter
    fun n => (decodeCommand (BitVec.ofFin n)).kind = .loadkey).card = 1024 ∧
  ((Finset.univ : Finset (Fin 4096)).filter
    fun n => (decodeCommand (BitVec.ofFin n)).kind = .encrypt).card = 256 ∧
  ((Finset.univ : Finset (Fin 4096)).filter
    fun n => (decodeCommand (BitVec.ofFin n)).kind = .decrypt).card = 256 ∧
  ((Finset.univ : Finset (Fin 4096)).filter
    fun n => (decodeCommand (BitVec.ofFin n)).kind = .illegal).card = 2560

/-- R87, R88: `k(i) = cmd[10-i]` with `val(k) = cmd[9:0]`, and `b(i) = cmd[8-i]` with `val(b) = cmd[7:0]` for both block
commands, with the two rules' examples. -/
def Obligations.OperandBitsOnWires : Prop :=
  (∀ (w : CmdWord) (k : Bits 10), decode w = .ok (.loadkey k) →
    (∀ i, 1 ≤ i → i ≤ 10 → pos k i = w.getLsbD (10 - i)) ∧ k.toNat = w.toNat % 1024) ∧
  (∀ (w : CmdWord) (b : Bits 8), decode w = .ok (.encrypt b) ∨ decode w = .ok (.decrypt b) →
    (∀ i, 1 ≤ i → i ≤ 8 → pos b i = w.getLsbD (8 - i)) ∧ b.toNat = w.toNat % 256) ∧
  decode 0x682#12 = .ok (.loadkey 0b1010000010#10) ∧
  decode 0x8D7#12 = .ok (.encrypt 0b11010111#8)

/-- R84, R85, R89: where status and data sit in the response word, the codes of the three statuses, and that the code 3
is never generated; reading a word back gives the response. -/
def Obligations.ResponseWordLayout : Prop :=
  (∀ r : Response,
    r.word.extractLsb' 8 2 = r.st.code ∧
    (∀ i, 1 ≤ i → i ≤ 8 → r.word.getLsbD (8 - i) = pos r.data i) ∧
    r.word.toNat = 256 * r.st.code.toNat + r.data.toNat ∧
    r.word.extractLsb' 8 2 ≠ 0b11#2 ∧
    Response.ofWord r.word = some r) ∧
  Status.ok.code = 0b00#2 ∧ Status.invalidInput.code = 0b01#2 ∧ Status.keyNotLoaded.code = 0b10#2 ∧
  Response.word ⟨.ok, 0b10101000#8⟩ = 0x0A8#10

/-- Words written out from the spec's encodings (R87, R88, R95 and the tables of 95_test_vectors.md section B11). -/
def Obligations.SampleWordsDecode : Prop :=
  decode 0x400#12 = .ok (.loadkey 0b0000000000#10) ∧
  decode 0x7FF#12 = .ok (.loadkey 0b1111111111#10) ∧
  decode 0x5FD#12 = .ok (.loadkey 0b0111111101#10) ∧
  decode 0x897#12 = .ok (.encrypt 0b10010111#8) ∧
  decode 0x8FF#12 = .ok (.encrypt 0b11111111#8) ∧
  decode 0xCA8#12 = .ok (.decrypt 0b10101000#8) ∧
  decode 0xC00#12 = .ok (.decrypt 0b00000000#8) ∧
  decode 0x3FF#12 = .error .opZero ∧
  decode 0x9D7#12 = .error .padNonzero ∧
  decode 0xE00#12 = .error .padNonzero

/-- R95: the textual form of a command assembles to the command's word and to nothing else. -/
def Obligations.AssembleOfPrint : Prop :=
  ∀ i : Instr, assembleLine (printInstr i) = some [.command (encode i)]

/-- R95: an operand with any other number of digits, or any character other than 0 and 1, is a syntax error; any other
operand is the sequence with those digits, position 1 leftmost. -/
def Obligations.OperandSyntax : Prop :=
  ∀ (n : Nat) (a : List Char),
    (parseBits n a = none ↔ a.length ≠ n ∨ ∃ c ∈ a, c ≠ '0' ∧ c ≠ '1') ∧
    (∀ s, parseBits n a = some s → printBits s = a)

/-! ## Tables -/

/-- R111, R112, R118, R119, R150: a table set is refused exactly when one of the constraints fails; a table set that is
accepted is used as it was given. -/
def Obligations.IllFormedTablesRefused : Prop :=
  ∀ r : RawTbl,
    (r.load = none ↔
      ¬((r.P10.length = 10 ∧ ∀ e ∈ r.P10, 1 ≤ e ∧ e ≤ 10) ∧
        (r.P8.length = 8 ∧ ∀ e ∈ r.P8, 1 ≤ e ∧ e ≤ 10) ∧
        (r.IP.length = 8 ∧ ∀ e ∈ r.IP, 1 ≤ e ∧ e ≤ 8) ∧
        (r.IPINV.length = 8 ∧ ∀ e ∈ r.IPINV, 1 ≤ e ∧ e ≤ 8) ∧
        (r.EP.length = 8 ∧ ∀ e ∈ r.EP, 1 ≤ e ∧ e ≤ 4) ∧
        (r.P4.length = 4 ∧ ∀ e ∈ r.P4, 1 ≤ e ∧ e ≤ 4) ∧
        (r.S0.length = 4 ∧ ∀ row ∈ r.S0, row.length = 4 ∧ ∀ v ∈ row, v ≤ 3) ∧
        (r.S1.length = 4 ∧ ∀ row ∈ r.S1, row.length = 4 ∧ ∀ v ∈ row, v ≤ 3) ∧
        (∀ j, 1 ≤ j → j ≤ 8 → r.IPINV[r.IP[j - 1]! - 1]! = j) ∧
        (∀ v, 1 ≤ v → v ≤ 4 → r.EP.count v = 2))) ∧
    (∀ T, r.load = some T →
      T.P10.entries = r.P10 ∧ T.P8.entries = r.P8 ∧ T.IP.entries = r.IP ∧ T.IPINV.entries = r.IPINV ∧
      T.EP.entries = r.EP ∧ T.P4.entries = r.P4 ∧ T.S0.rows = r.S0 ∧ T.S1.rows = r.S1)

/-- R118: IPINV undoes IP and IP undoes IPINV, for every sequence and every table set. -/
def Obligations.IpAndIpinvUndoEachOther : Prop :=
  ∀ (T : Tbl) (s : Bits 8),
    permute (permute s T.IP) T.IPINV = s ∧ permute (permute s T.IPINV) T.IP = s

/-- R119, R166: every output position of the expansion is a copy of one input bit, each input bit at exactly two output
positions. -/
def Obligations.ExpansionUsesEachBitTwice : Prop :=
  ∀ T : Tbl,
    (∀ (h : Bits 4) (j : Nat), 1 ≤ j → j ≤ 8 →
      1 ≤ tableEntry T.EP j ∧ tableEntry T.EP j ≤ 4 ∧ pos (permute h T.EP) j = pos h (tableEntry T.EP j)) ∧
    (∀ v, 1 ≤ v → v ≤ 4 → ((Finset.Icc 1 8).filter fun j => tableEntry T.EP j = v).card = 2)

/-! ## The datapath -/

/-- R110: `permute(source, table)(j) = source(table(j))` for `j = 1..m`, with the rule's example; the output has the
table's length. -/
def Obligations.PermuteByPositions : Prop :=
  (∀ (n m : Nat) (s : Bits n) (t : PermTable n m) (j : Nat), 1 ≤ j → j ≤ m →
    1 ≤ tableEntry t j ∧ tableEntry t j ≤ n ∧ pos (permute s t) j = pos s (tableEntry t j)) ∧
  permute 0b1010000010#10 tableP10 = 0b1000001100#10

/-- R114 (the spec's inference from R110, but for the first two): the laws of `permute`: identity, reversal, xor,
constant sequences, composition, and exactly one inverse for a bijection. -/
def Obligations.PermuteLaws : Prop :=
  (∀ (n : Nat) (t : PermTable n n) (s : Bits n), (∀ j, 1 ≤ j → j ≤ n → tableEntry t j = j) → permute s t = s) ∧
  (∀ (n : Nat) (t : PermTable n n) (s : Bits n), (∀ j, 1 ≤ j → j ≤ n → tableEntry t j = n + 1 - j) →
    ∀ j, 1 ≤ j → j ≤ n → pos (permute s t) j = pos s (n + 1 - j)) ∧
  (∀ (n m : Nat) (t : PermTable n m) (a b : Bits n), permute (a ^^^ b) t = permute a t ^^^ permute b t) ∧
  (∀ (n m : Nat) (t : PermTable n m), permute (0#n) t = 0#m ∧ permute (BitVec.allOnes n) t = BitVec.allOnes m) ∧
  (∀ (n m l : Nat) (t : PermTable n m) (u : PermTable m l) (w : PermTable n l) (s : Bits n),
    (∀ j, 1 ≤ j → j ≤ l → tableEntry w j = tableEntry t (tableEntry u j)) →
    permute (permute s t) u = permute s w) ∧
  (∀ (n : Nat) (t : PermTable n n), (∀ v, 1 ≤ v → v ≤ n → t.entries.count v = 1) →
    ∃ t' : PermTable n n,
      (∀ s : Bits n, permute (permute s t) t' = s) ∧
      (∀ j, 1 ≤ j → j ≤ n → tableEntry t' (tableEntry t j) = j) ∧
      (∀ t'' : PermTable n n, (∀ s : Bits n, permute (permute s t) t'' = s) → t'' = t'))

/-- R131: rotation by positions, its other form with two pieces, and the rule's examples. -/
def Obligations.RotateByPositions : Prop :=
  (∀ (n r : Nat) (h : Bits n) (i : Nat), 1 ≤ i → i ≤ n → pos (rotate h r) i = pos h ((i - 1 + r % n) % n + 1)) ∧
  (∀ (n r : Nat) (h : Bits n), 1 ≤ n →
    (rotate h r).toNat = (slice (r % n + 1) (n - r % n) h ++ slice 1 (r % n) h).toNat) ∧
  (∀ (n r : Nat) (h : Bits n), 1 ≤ n → r % n = 1 → pos (rotate h r) n = pos h 1) ∧
  rotate 0b10000#5 1 = 0b00001#5 ∧ rotate 0b01100#5 1 = 0b11000#5 ∧
  rotate 0b00001#5 2 = 0b00100#5 ∧ rotate 0b11000#5 2 = 0b00011#5

/-- R132 (the spec's inference from R131): the laws of rotation. -/
def Obligations.RotateLaws : Prop :=
  (∀ (n a b : Nat) (h : Bits n), rotate (rotate h a) b = rotate h (a + b)) ∧
  (∀ (n : Nat) (h : Bits n), rotate h n = h ∧ rotate h 0 = h) ∧
  (∀ left0 : Bits 5, rotate (rotate left0 1) 2 = rotate left0 3) ∧
  (∀ n r : Nat, rotate (0#n) r = 0#n ∧ rotate (BitVec.allOnes n) r = BitVec.allOnes n) ∧
  (∀ (n r : Nat) (a b : Bits n), rotate (a ^^^ b) r = rotate a r ^^^ rotate b r)

/-- R130, R133, R134: both subkeys by positions, for every table set: K1 from the halves of the P10 output rotated by 1, K2
from the same halves rotated by 3 in all, each half by itself. -/
def Obligations.SubkeysByRotatedHalves : Prop :=
  ∀ (T : Tbl) (k : Bits 10) (j : Nat), 1 ≤ j → j ≤ 8 →
    let e := tableEntry T.P8 j
    let from10 := fun r => if e ≤ 5 then (e - 1 + r) % 5 + 1 else (e - 6 + r) % 5 + 6
    pos (generateKeys T k).1 j = pos k (tableEntry T.P10 (from10 1)) ∧
    pos (generateKeys T k).2 j = pos k (tableEntry T.P10 (from10 3))

/-- R140 (the spec's inference from R133): with the default tables (log entry 5) the schedule is this wiring; K1 does
not depend on k2 or k5, K2 not on k4 or k7. -/
def Obligations.DefaultScheduleWiring : Prop :=
  (∀ k : Bits 10,
    toDigits (generateKeys tables k).1 = [1, 7, 9, 4, 8, 3, 10, 6].map (fun i => bitVal (pos k i)) ∧
    toDigits (generateKeys tables k).2 = [8, 3, 6, 5, 10, 2, 9, 1].map (fun i => bitVal (pos k i))) ∧
  (∀ k k' : Bits 10, (∀ i, 1 ≤ i → i ≤ 10 → i ≠ 2 → i ≠ 5 → pos k i = pos k' i) →
    (generateKeys tables k).1 = (generateKeys tables k').1) ∧
  (∀ k k' : Bits 10, (∀ i, 1 ≤ i → i ≤ 10 → i ≠ 4 → i ≠ 7 → pos k i = pos k' i) →
    (generateKeys tables k).2 = (generateKeys tables k').2)

/-- R136 (the spec's inference): the all-zero and the all-one key give equal subkeys under every table set; under the
default tables (log entry 5) exactly eight keys do, and LOADKEY accepts them like any other. -/
def Obligations.KeysWithEqualSubkeys : Prop :=
  (∀ T : Tbl, generateKeys T (0#10) = (0#8, 0#8) ∧
    generateKeys T (BitVec.allOnes 10) = (BitVec.allOnes 8, BitVec.allOnes 8)) ∧
  (∀ k : Bits 10, (generateKeys tables k).1 = (generateKeys tables k).2 ↔
    k ∈ [0b0000000000#10, 0b0001100000#10, 0b0110001000#10, 0b0111101000#10,
      0b1000010111#10, 0b1001110111#10, 0b1110011111#10, 0b1111111111#10]) ∧
  (∀ (k : Bits 10) (s : State), (generateKeys tables k).1 = (generateKeys tables k).2 →
    ∃ t, exec (.loadkey k) s = .next t ∧ t.rsp = some ⟨.ok, 0x00#8⟩ ∧ t.regs.key = k ∧ t.regs.kv = true)

/-- R151 to R153: row from the outer bits, column from the inner bits, both at most 3; the output is the table value in
two bits, most significant first. The last clause, the select value of the row-by-row grid, is R157, the spec's inference
from R151. -/
def Obligations.SboxByRowAndColumn : Prop :=
  ∀ (T : SBox) (h : Bits 4),
    let row := 2 * bitVal (pos h 1) + bitVal (pos h 4)
    let col := 2 * bitVal (pos h 2) + bitVal (pos h 3)
    row ≤ 3 ∧ col ≤ 3 ∧
    sboxValue T row col ≤ 3 ∧
    (sbox h T).toNat = sboxValue T row col ∧
    bitVal (pos (sbox h T) 1) = sboxValue T row col / 2 ∧
    bitVal (pos (sbox h T) 2) = sboxValue T row col % 2 ∧
    sboxValue T row col = T.rows.flatten.getD
      (8 * bitVal (pos h 1) + 4 * bitVal (pos h 4) + 2 * bitVal (pos h 2) + bitVal (pos h 3)) 0

/-- R156: the two default S-boxes (log entry 5) as truth tables, inputs 0000 to 1111 in order. -/
def Obligations.DefaultSboxTruthTables : Prop :=
  ((List.range 16).map fun v => (sbox (BitVec.ofNat 4 v) tableS0).toNat) =
    [1, 3, 0, 2, 3, 1, 2, 0, 0, 3, 2, 1, 1, 3, 3, 2] ∧
  ((List.range 16).map fun v => (sbox (BitVec.ofNat 4 v) tableS1).toNat) =
    [0, 2, 1, 0, 2, 1, 3, 3, 3, 2, 0, 1, 1, 0, 0, 3]

/-- R171 (the spec's inference from R165): the round function bit by bit under the default tables (log entry 5). -/
def Obligations.DefaultRoundEquations : Prop :=
  ∀ (h : Bits 4) (k : Bits 8),
    let x := fun i j => bitVal (pos h i ^^ pos k j)
    let v0 := sboxValue tableS0 (2 * x 4 1 + x 3 4) (2 * x 1 2 + x 2 3)
    let v1 := sboxValue tableS1 (2 * x 2 5 + x 1 8) (2 * x 3 6 + x 4 7)
    toDigits (feistel tables h k) = [v0 % 2, v1 % 2, v1 / 2, v0 / 2]

/-- R180 to R184: the two rounds written as a Feistel network: a swap after round 1, none after round 2. -/
def Obligations.CipherIsTwoRounds : Prop :=
  ∀ (T : Tbl) (l0 r0 : Bits 4) (block ka kb : Bits 8), permute block T.IP = (l0 ++ r0 : BitVec (4 + 4)) →
    let l1 := l0 ^^^ feistel T r0 ka
    permute (cipher T block ka kb) T.IP = ((r0 ^^^ feistel T l1 kb) ++ l1 : BitVec (4 + 4))

/-- R191, and R192, the spec's inference from it: under any table set and any two subkeys, deciphering with the subkeys
in opposite order gives the block back, in both directions, and so ciphering is a bijection of the 256 blocks. -/
def Obligations.CipherRoundTrip : Prop :=
  ∀ (T : Tbl) (ka kb : Bits 8),
    (∀ p : Bits 8, cipher T (cipher T p ka kb) kb ka = p) ∧
    (∀ c : Bits 8, cipher T (cipher T c kb ka) ka kb = c) ∧
    Function.Bijective (fun p : Bits 8 => cipher T p ka kb)

/-- R195 (the spec's inference): with equal subkeys ENCRYPT and DECRYPT are the same function and it is its own inverse. -/
def Obligations.EqualSubkeysGiveInvolution : Prop :=
  ∀ (T : Tbl) (r : Regs), r.k1 = r.k2 →
    (∀ b : Bits 8, encrypt T r b = decrypt T r b) ∧ (∀ b : Bits 8, encrypt T r (encrypt T r b) = b)

/-! ## The three commands -/

/-- R137: LOADKEY completes in every state: all four registers written together, response (OK, 0x00). -/
def Obligations.LoadkeyCompletes : Prop :=
  ∀ (k : Bits 10) (s : State),
    exec (.loadkey k) s = .next
      { regs := { key := k, k1 := (generateKeys tables k).1, k2 := (generateKeys tables k).2, kv := true }
        rsp := some { st := .ok, data := 0x00#8 }
        host := s.host
        fresh := s.fresh }

/-- R185, R189: with a key loaded, ENCRYPT completes: the response is (OK, cipher(b, K1, K2)), nothing else changes. -/
def Obligations.EncryptCompletes : Prop :=
  ∀ (b : Bits 8) (s : State), s.regs.kv = true →
    exec (.encrypt b) s = .next { s with rsp := some { st := .ok, data := cipher tables b s.regs.k1 s.regs.k2 } }

/-- R186, R190: with a key loaded, DECRYPT completes: the response is (OK, cipher(b, K2, K1)), nothing else changes. -/
def Obligations.DecryptCompletes : Prop :=
  ∀ (b : Bits 8) (s : State), s.regs.kv = true →
    exec (.decrypt b) s = .next { s with rsp := some { st := .ok, data := cipher tables b s.regs.k2 s.regs.k1 } }

/-- R213: with KV = 0 both block commands answer KeyNotLoaded with data 0x00 and change nothing; KV stays 0. -/
def Obligations.KeyNotLoadedAnswer : Prop :=
  ∀ (b : Bits 8) (s : State), s.regs.kv = false →
    exec (.encrypt b) s = .next { s with rsp := some { st := .keyNotLoaded, data := 0x00#8 } } ∧
    exec (.decrypt b) s = .next { s with rsp := some { st := .keyNotLoaded, data := 0x00#8 } }

/-- R137 for command words: any word with `op = 01`, in any state. -/
def Obligations.LoadkeyWord : Prop :=
  ∀ (w : CmdWord) (rest : List HostEvent) (s : State),
    s.host = .command w :: rest → w.extractLsb' 10 2 = 0b01#2 →
    let k := w.extractLsb' 0 10
    step s = .next
      { regs := { key := k, k1 := (generateKeys tables k).1, k2 := (generateKeys tables k).2, kv := true }
        rsp := some { st := .ok, data := 0x00#8 }
        host := rest
        fresh := s.fresh }

/-- R189 for command words: any word with `op = 10`: the pad is checked first, then KV, then the block is ciphered
with K1 in round 1 and K2 in round 2. -/
def Obligations.EncryptWord : Prop :=
  ∀ (w : CmdWord) (rest : List HostEvent) (s : State),
    s.host = .command w :: rest → w.extractLsb' 10 2 = 0b10#2 →
    step s = .next
      { s with
        rsp := some
          (if w.extractLsb' 8 2 ≠ 0b00#2 then { st := .invalidInput, data := 0x00#8 }
          else if s.regs.kv = false then { st := .keyNotLoaded, data := 0x00#8 }
          else { st := .ok, data := cipher tables (w.extractLsb' 0 8) s.regs.k1 s.regs.k2 })
        host := rest }

/-- R190 for command words: any word with `op = 11`: the pad is checked first, then KV, then the block is ciphered with the
subkeys in opposite order. -/
def Obligations.DecryptWord : Prop :=
  ∀ (w : CmdWord) (rest : List HostEvent) (s : State),
    s.host = .command w :: rest → w.extractLsb' 10 2 = 0b11#2 →
    step s = .next
      { s with
        rsp := some
          (if w.extractLsb' 8 2 ≠ 0b00#2 then { st := .invalidInput, data := 0x00#8 }
          else if s.regs.kv = false then { st := .keyNotLoaded, data := 0x00#8 }
          else { st := .ok, data := cipher tables (w.extractLsb' 0 8) s.regs.k2 s.regs.k1 })
        host := rest }

/-- R91, R92, R211, R217: a word with `op = 00`, or with `op` 10 or 11 and a pad other than 00, is answered InvalidInput with
data 0x00 and changes nothing, whatever KV is: decode comes before the test of KV, as in the example of R217 from reset. -/
def Obligations.IllegalWordAnswer : Prop :=
  (∀ (w : CmdWord) (rest : List HostEvent) (s : State), s.host = .command w :: rest →
    (w.extractLsb' 10 2 = 0b00#2 ∨
      (w.extractLsb' 10 2 = 0b10#2 ∨ w.extractLsb' 10 2 = 0b11#2) ∧ w.extractLsb' 8 2 ≠ 0b00#2) →
    step s = .next { s with rsp := some { st := .invalidInput, data := 0x00#8 }, host := rest }) ∧
  (rspTrace 2 { State.reset with host := [.command 0x9D7#12, .command 0x8D7#12] }).map (Option.map Response.word) =
    [some 0x100#10, some 0x200#10]

/-- The reference fixture under the default tables (log entry 5; the examples of R137, R189, R190, and R198): after reset,
LOADKEY 1010000010, ENCRYPT 11010111, DECRYPT 10101000. -/
def Obligations.ReferenceFixture : Prop :=
  (rspTrace 3 { State.reset with host := [.command 0x682#12, .command 0x8D7#12, .command 0xCA8#12] }).map
    (Option.map Response.word) = [some 0x000#10, some 0x0A8#10, some 0x0D7#10] ∧
  (∃ t, step (present 0x682#12 State.reset) = .next t ∧
    t.regs = { key := 0b1010000010#10, k1 := 0b10100100#8, k2 := 0b01000011#8, kv := true })

/-- R187 (the spec's inference from R185, R186): the two block commands differ in nothing but the subkey select
`dec = cmd[10]`. -/
def Obligations.SubkeySelectByWire10 : Prop :=
  ∀ (w : CmdWord) (rest : List HostEvent) (s : State),
    s.host = .command w :: rest → w.getLsbD 11 = true → w.extractLsb' 8 2 = 0b00#2 → s.regs.kv = true →
    let dec := w.getLsbD 10
    let ka := if dec then s.regs.k2 else s.regs.k1
    let kb := if dec then s.regs.k1 else s.regs.k2
    step s = .next
      { s with rsp := some { st := .ok, data := cipher tables (w.extractLsb' 0 8) ka kb }, host := rest }

/-- The frame of all three instructions (R30, R47): KEY, K1, K2, KV are written by LOADKEY alone, and no instruction
changes what the host does next or the free-value counter. -/
def Obligations.InstructionFrames : Prop :=
  ∀ (i : Instr) (s t : State), exec i s = .next t →
    t.host = s.host ∧ t.fresh = s.fresh ∧
    (∀ k, i = .loadkey k → t.regs.key = k ∧ t.regs.kv = true) ∧
    ((∀ k, i ≠ .loadkey k) → t.regs = s.regs)

/-- R138: every key is accepted in every state, and nothing of the old key shows in the registers or in any later
response; every later ENCRYPT and DECRYPT, until the next LOADKEY or reset (R37), uses the new subkeys; loading the loaded
key again changes no register; a command word that is not a LOADKEY writes no register. -/
def Obligations.RekeyingRules : Prop :=
  (∀ (k : Bits 10) (s s' : State), ∃ t t', exec (.loadkey k) s = .next t ∧ exec (.loadkey k) s' = .next t' ∧
    t.regs = t'.regs ∧ t.rsp = some ⟨.ok, 0x00#8⟩ ∧ t'.rsp = some ⟨.ok, 0x00#8⟩ ∧
    (s.host = s'.host → ∀ n, rspTrace n t = rspTrace n t')) ∧
  (∀ (k : Bits 10) (n : Nat) (b : Bits 8) (s t u : State),
    (∀ e ∈ s.host, e ≠ .reset ∧ ∀ w k', e = .command w → decode w ≠ .ok (.loadkey k')) →
    exec (.loadkey k) s = .next t → run n t = .next u →
    ∃ v w, exec (.encrypt b) u = .next v ∧ exec (.decrypt b) u = .next w ∧
      v.rsp = some ⟨.ok, cipher tables b (generateKeys tables k).1 (generateKeys tables k).2⟩ ∧
      w.rsp = some ⟨.ok, cipher tables b (generateKeys tables k).2 (generateKeys tables k).1⟩) ∧
  (∀ s : State, CoreInv s → s.regs.kv = true →
    exec (.loadkey s.regs.key) s = .next { s with rsp := some ⟨.ok, 0x00#8⟩ }) ∧
  (∀ (w : CmdWord) (rest : List HostEvent) (s t : State), s.host = .command w :: rest →
    w.extractLsb' 10 2 ≠ 0b01#2 → step s = .next t → t.regs = s.regs)

/-! ## Steps and runs -/

/-- A step runs the decoded instruction: when the host's next event is a word that decodes to `i`, the step is `exec i` on
the state with that event taken off (R71, R93). -/
def Obligations.StepRunsDecoded : Prop :=
  ∀ (w : CmdWord) (i : Instr) (rest : List HostEvent) (s : State),
    s.host = .command w :: rest → decode w = .ok i → step s = exec i { s with host := rest }

/-- Presenting the word of an instruction makes the very next step run it, and leaves the host's later events as they were
(log entry 6). -/
def Obligations.StepRunsPresentedWord : Prop :=
  ∀ (i : Instr) (s : State),
    step (s.withFetchWord 16 (encode i).toNat) = exec i s ∧
    decodeTableWord 16 (encode i).toNat = some i

/-- R229: with nothing presented the core is idle and keeps its registers; no response is pending (log entries 1, 2). -/
def Obligations.IdleKeepsRegisters : Prop :=
  ∀ s : State, s.host = [] → step s = .next { s with rsp := none }

/-- R240, R242: reset, in any state, clears KV, answers nothing, and leaves no instance; its result, seen as
`Option Instance`, does not depend on the state before it. -/
def Obligations.ResetEvent : Prop :=
  ∀ (rest : List HostEvent) (s : State), s.host = .reset :: rest →
    ∃ t, step s = .next t ∧ t.regs.kv = false ∧ t.regs.view = none ∧ t.rsp = none ∧ t.host = rest

/-- R45 (the value the spec gives), R243, R245: after reset KV = 0, no response is pending, LOADKEY answers OK and the block
commands answer KeyNotLoaded. -/
def Obligations.AfterResetOnlyLoadkey : Prop :=
  State.reset.regs.kv = false ∧ State.reset.rsp = none ∧
  (∀ k : Bits 10, ∃ t, exec (.loadkey k) State.reset = .next t ∧ t.rsp = some ⟨.ok, 0x00#8⟩) ∧
  (∀ b : Bits 8, ∃ t u, exec (.encrypt b) State.reset = .next t ∧ t.rsp = some ⟨.keyNotLoaded, 0x00#8⟩ ∧
    exec (.decrypt b) State.reset = .next u ∧ u.rsp = some ⟨.keyNotLoaded, 0x00#8⟩)

/-- R47: what each event does to the four registers (KEY, K1, K2 after reset are unspecified, so nothing is said of them). -/
def Obligations.StateChangePerEvent : Prop :=
  ∀ s t : State, step s = .next t →
    (∀ rest, s.host = .reset :: rest → t.regs.kv = false) ∧
    (∀ w rest k, s.host = .command w :: rest → decode w = .ok (.loadkey k) →
      t.regs.key = k ∧ (t.regs.k1, t.regs.k2) = generateKeys tables k ∧ t.regs.kv = true) ∧
    (∀ w rest b, s.host = .command w :: rest → decode w = .ok (.encrypt b) → t.regs = s.regs) ∧
    (∀ w rest b, s.host = .command w :: rest → decode w = .ok (.decrypt b) → t.regs = s.regs) ∧
    (∀ w rest e, s.host = .command w :: rest → decode w = .error e → t.regs = s.regs)

/-- R35: nothing but LOADKEY sets KV and nothing but reset clears it. -/
def Obligations.KeyValidChangesOnlyBy : Prop :=
  ∀ s t : State, step s = .next t →
    (s.regs.kv = false → t.regs.kv = true →
      ∃ w rest k, s.host = .command w :: rest ∧ decode w = .ok (.loadkey k)) ∧
    (s.regs.kv = true → t.regs.kv = false → ∃ rest, s.host = .reset :: rest)

/-- R37: within one instance the registers never change: over any number of steps in which the host neither resets nor
loads a key. -/
def Obligations.InstanceKeepsRegisters : Prop :=
  ∀ (n : Nat) (s t : State),
    (∀ e ∈ s.host, e ≠ .reset ∧ ∀ w k, e = .command w → decode w ≠ .ok (.loadkey k)) →
    run n s = .next t → t.regs = s.regs

/-- R215, R253: no step stops the machine: from every state every number of steps gives a next state. -/
def Obligations.EveryRunIsSafe : Prop :=
  ∀ (n : Nat) (s : State), SafeRun n s

/-- R71, R242, R248, R253: a step takes the host's next event off, and there is a response after it exactly when that
event was a command. -/
def Obligations.OneResponsePerCommand : Prop :=
  ∀ s t : State, step s = .next t →
    t.host = s.host.tail ∧ (t.rsp.isSome = true ↔ ∃ w rest, s.host = .command w :: rest)

/-- R86, R216, R221: a step that answers an error changes no register and carries data 0x00, and the next command is
performed as if the failing one had not been issued. -/
def Obligations.ErrorsChangeNothing : Prop :=
  ∀ (w w' : CmdWord) (rest : List HostEvent) (s t : State) (r : Response),
    s.host = .command w :: .command w' :: rest → step s = .next t → t.rsp = some r → r.st ≠ .ok →
    t.regs = s.regs ∧ r.data = 0x00#8 ∧ step t = step { s with host := .command w' :: rest }

/-- R36, R86, R213: the invariant of the core is kept by every step, from every state that meets it. -/
def Obligations.StepKeepsInvariant : Prop :=
  ∀ s t : State, CoreInv s → step s = .next t → CoreInv t

/-- The invariant holds right after reset (R45). -/
def Obligations.ResetMeetsInvariant : Prop := CoreInv State.reset

/-- R36 (the spec's inference): in every state reachable from reset, under any events of the host, `KV = 1` means
`(K1, K2) = generate_keys(KEY)`. -/
def Obligations.ReachableSubkeysMatchKey : Prop :=
  ∀ (events : List HostEvent) (n : Nat) (s : State),
    run n { State.reset with host := events } = .next s →
    s.regs.kv = true → (s.regs.k1, s.regs.k2) = generateKeys tables s.regs.key

/-- R46 (the spec's inference from R30, R36, R45): the four registers refine `Option Instance`: over all the host's
events, responses and final state agree with the commands and the reset of that form. -/
def Obligations.RegistersRefineInstance : Prop :=
  ∀ s : State,
    rspTrace s.host.length s = viewTrace tables s.regs.view s.host ∧
    ∃ t, run s.host.length s = .next t ∧ t.regs.view = viewAfter tables s.regs.view s.host

/-- R31, R45, R241, R247: no run tells two states apart that differ in KEY, or in K1 and K2 while KV = 0: the responses are
the same at every step. -/
def Obligations.UnreadRegistersUnobservable : Prop :=
  ∀ (n : Nat) (s t : State), SameToHost s t → rspTrace n s = rspTrace n t

/-- R191 for commands: after LOADKEY k, with anything but a LOADKEY or a reset before it, ENCRYPT P answers (OK, C) for
some C, and then DECRYPT C, with anything but a LOADKEY or a reset in between, answers (OK, P). -/
def Obligations.CommandsRoundTrip : Prop :=
  ∀ (k : Bits 10) (P : Bits 8) (before between : List HostEvent) (s : State),
    (∀ e ∈ before ++ between, e ≠ .reset ∧ ∀ w k', e = .command w → decode w ≠ .ok (.loadkey k')) →
    s.host = .command (encode (.loadkey k)) :: (before ++ .command (encode (.encrypt P)) :: between) →
    rspTrace 1 s = [some ⟨.ok, 0x00#8⟩] ∧
    ∃ C t u v, run (before.length + 2) s = .next t ∧ t.rsp = some ⟨.ok, C⟩ ∧
      run between.length t = .next u ∧ exec (.decrypt C) u = .next v ∧ v.rsp = some ⟨.ok, P⟩

/-! ## The signal-level port -/

/-- R218, R248: a command presented while the core is busy, or while reset is asserted, is not accepted: the cycle is the
same as with nothing presented. -/
def Obligations.BusyPortAcceptsNothing : Prop :=
  ∀ (c : PortConfig) (p : PortState) (rst : Bool) (w : CmdWord),
    (rst = true ∨ ∃ f, p.flight = some f ∧ (f.left ≠ 0 ∨ c.overlap = false)) →
    clock c p { rst := rst, cmd := some w } = clock c p { rst := rst, cmd := none } ∧
    (clock c p { rst := rst, cmd := some w }).2.ready = false

/-- R242: reset discards a command in flight: no response, KV = 0, nothing in flight afterwards; the cycle is the same as
if nothing had been in flight. That a response due in the very cycle of reset is discarded too is the model's choice: reset
is sampled once per cycle and acts in that cycle (log entry 7, DESIGN CHOICE). -/
def Obligations.ResetDiscardsCommandInFlight : Prop :=
  ∀ (c : PortConfig) (p : PortState) (cmd : Option CmdWord),
    clock c p { rst := true, cmd := cmd } = clock c { p with flight := none } { rst := true, cmd := none } ∧
    (clock c p { rst := true, cmd := cmd }).2.rsp = none ∧
    (clock c p { rst := true, cmd := cmd }).1.flight = none ∧
    (clock c p { rst := true, cmd := cmd }).1.core.regs.kv = false

/-- R252, R253: a command accepted by an idle port is answered exactly `LAT` cycles later, once, with the response the
spec's `step` gives, if reset does not intervene. -/
def Obligations.ResponseAfterLatency : Prop :=
  ∀ (c : PortConfig) (p : PortState) (w : CmdWord) (first : Pins) (later : List Pins),
    p.flight = none → first.rst = false → first.cmd = some w →
    (∀ i ∈ later, i.rst = false) → later.length = latOf c w →
    (portOuts c p (first :: later)).map PortOut.rsp =
      List.replicate (latOf c w) none ++ [some (perform tables p.core.regs (decodeCommand w)).2.word]

/-- R71, R248: over cycles without reset, the words performed, then the one in flight, are the words in flight before and
the words accepted, in the order of acceptance: none is dropped, merged or overtaken. -/
def Obligations.AcceptedCommandsPerformedInOrder : Prop :=
  ∀ (c : PortConfig) (p : PortState) (pins : List Pins), (∀ i ∈ pins, i.rst = false) →
    portEvents c p pins ++ ((portAfter c p pins).flight.toList.map fun f => HostEvent.command f.word) =
      (p.flight.toList.map fun f => HostEvent.command f.word) ++
        (portAccepted c p pins).map HostEvent.command

/-- R71, R242, R255: the port refines the command-level machine: over any cycles, resets among them, the responses on the
port are those of the machine run on the events the core performed, and the final view of the registers agrees. -/
def Obligations.PortRefinesCommands : Prop :=
  ∀ (c : PortConfig) (p : PortState) (pins : List Pins),
    ((portOuts c p pins).filterMap PortOut.rsp).map some =
      ((viewTrace tables p.core.regs.view (portEvents c p pins)).filter Option.isSome).map
        (Option.map Response.word) ∧
    (portAfter c p pins).core.regs.view = viewAfter tables p.core.regs.view (portEvents c p pins)

/-! ## Several cores -/

/-- R74, R225: whatever the interleaving, each core ends as if it had run its own steps alone. -/
def Obligations.CoresRunAsIfAlone : Prop :=
  ∀ (n : Nat) (sys : System n) (schedule : List (Fin n)) (j : Fin n),
    run (schedule.count j) sys[j] = .next (runSchedule sys schedule)[j]
end

