-- ==== Sys2Proof/Laws/State.lean ====
section
/-!
SUPPORT. One lemma per field per update of the state and of the registers, true by unfolding, so that no later proof unfolds a
record update.
-/

namespace Sys2Proof.Laws

open Sys2Proof.Machine

section Registers
variable (r : Regs) (k : Bits 10) (a b : Bits 8)

@[simp] theorem keyValid_eq : keyValid r = r.kv := rfl
@[simp] theorem setKeyValid_key : (setKeyValid r).key = r.key := rfl
@[simp] theorem setKeyValid_k1 : (setKeyValid r).k1 = r.k1 := rfl
@[simp] theorem setKeyValid_k2 : (setKeyValid r).k2 = r.k2 := rfl
@[simp] theorem setKeyValid_kv : (setKeyValid r).kv = true := rfl
@[simp] theorem clearKeyValid_key : (clearKeyValid r).key = r.key := rfl
@[simp] theorem clearKeyValid_k1 : (clearKeyValid r).k1 = r.k1 := rfl
@[simp] theorem clearKeyValid_k2 : (clearKeyValid r).k2 = r.k2 := rfl
@[simp] theorem clearKeyValid_kv : (clearKeyValid r).kv = false := rfl
@[simp] theorem writeInstance_key : (writeInstance k a b r).key = k := rfl
@[simp] theorem writeInstance_k1 : (writeInstance k a b r).k1 = a := rfl
@[simp] theorem writeInstance_k2 : (writeInstance k a b r).k2 = b := rfl
@[simp] theorem writeInstance_kv : (writeInstance k a b r).kv = true := rfl

end Registers

section Core
variable (s : State) (p : Regs × Response) (w : CmdWord)

@[simp] theorem answer_regs : (answer p s).regs = p.1 := rfl
@[simp] theorem answer_rsp : (answer p s).rsp = some p.2 := rfl
@[simp] theorem answer_host : (answer p s).host = s.host := rfl
@[simp] theorem answer_fresh : (answer p s).fresh = s.fresh := rfl
@[simp] theorem idle_regs : (idle s).regs = s.regs := rfl
@[simp] theorem idle_rsp : (idle s).rsp = none := rfl
@[simp] theorem idle_host : (idle s).host = s.host := rfl
@[simp] theorem idle_fresh : (idle s).fresh = s.fresh := rfl
@[simp] theorem resetCore_kv : (resetCore s).regs.kv = false := rfl
@[simp] theorem resetCore_rsp : (resetCore s).rsp = none := rfl
@[simp] theorem resetCore_host : (resetCore s).host = s.host := rfl
@[simp] theorem resetCore_fresh : (resetCore s).fresh = s.fresh + 1 := rfl
@[simp] theorem answerIllegal_regs : (answerIllegal s).regs = s.regs := rfl
@[simp] theorem answerIllegal_rsp : (answerIllegal s).rsp = some ⟨.invalidInput, 0#8⟩ := rfl
@[simp] theorem answerIllegal_host : (answerIllegal s).host = s.host := rfl
@[simp] theorem answerIllegal_fresh : (answerIllegal s).fresh = s.fresh := rfl
@[simp] theorem present_regs : (present w s).regs = s.regs := rfl
@[simp] theorem present_rsp : (present w s).rsp = s.rsp := rfl
@[simp] theorem present_host : (present w s).host = .command w :: s.host := rfl
@[simp] theorem present_fresh : (present w s).fresh = s.fresh := rfl
@[simp] theorem dropEvent_regs : (dropEvent s).regs = s.regs := rfl
@[simp] theorem dropEvent_rsp : (dropEvent s).rsp = s.rsp := rfl
@[simp] theorem dropEvent_host : (dropEvent s).host = s.host.tail := rfl
@[simp] theorem dropEvent_fresh : (dropEvent s).fresh = s.fresh := rfl

end Core

end Sys2Proof.Laws
end

