-- ==== Sys2Proof/Laws/Ops.lean ====
section
/-!
SUPPORT. What each shared operation and each step can do, said once, for proofs to cite instead of unfolding.
-/

namespace Sys2Proof.Laws

open Sys2Proof.Machine

/-- Raising an error writes no register and answers the error's code with data 0x00 (R18, R216). -/
theorem raiseError_spec (e : CmdError) (r : Regs) : raiseError e r = (r, ⟨e.status, 0#8⟩) := rfl

/-- An OK answer keeps the registers given to it. -/
theorem respondOk_spec (d : Bits 8) (r : Regs) : respondOk d r = (r, ⟨.ok, d⟩) := rfl

/-- LOADKEY's registers and response (R137). -/
theorem loadKey_spec (T : Tbl) (k : Bits 10) (r : Regs) :
    loadKey T k r = (⟨k, (generateKeys T k).1, (generateKeys T k).2, true⟩, ⟨.ok, 0#8⟩) := rfl

/-- ENCRYPT keeps the registers; its response by KV (R189). -/
theorem encryptBlock_spec (T : Tbl) (b : Bits 8) (r : Regs) :
    encryptBlock T b r =
      (r, if r.kv then ⟨.ok, cipher T b r.k1 r.k2⟩ else ⟨.keyNotLoaded, 0#8⟩) := by
  rcases r with ⟨_, _, _, _ | _⟩ <;> rfl

/-- DECRYPT keeps the registers; its response by KV (R190). -/
theorem decryptBlock_spec (T : Tbl) (b : Bits 8) (r : Regs) :
    decryptBlock T b r =
      (r, if r.kv then ⟨.ok, cipher T b r.k2 r.k1⟩ else ⟨.keyNotLoaded, 0#8⟩) := by
  rcases r with ⟨_, _, _, _ | _⟩ <;> rfl

/-- A meaning answers with what the spec's `step` gives for it (R19). -/
theorem exec_eq_perform (i : Instr) (s : State) :
    exec i s = .next (answer (perform tables s.regs (.legal i)) s) := by
  cases i <;> rfl

/-- An accepted word is answered with what the spec's `step` gives for the command it decodes to (R19, R93). -/
theorem performWord_eq (w : CmdWord) (s : State) :
    performWord w s = .next (answer (perform tables s.regs (decodeCommand w)) s) := by
  unfold performWord decodeCommand
  cases decode w with
  | ok i => exact exec_eq_perform i s
  | error e => rfl

/-- Everything a step can do: idle, reset, or answer one command. -/
theorem step_cases (s : State) :
    (s.host = [] ∧ step s = .next (idle s)) ∨
    (∃ rest, s.host = .reset :: rest ∧ step s = .next (resetCore { s with host := rest })) ∨
    (∃ w rest, s.host = .command w :: rest ∧
      step s = .next (answer (perform tables s.regs (decodeCommand w)) { s with host := rest })) := by
  obtain ⟨regs, rsp, host, fresh⟩ := s
  match host with
  | [] => exact .inl ⟨rfl, rfl⟩
  | .reset :: rest => exact .inr (.inl ⟨rest, rfl, rfl⟩)
  | .command w :: rest => exact .inr (.inr ⟨w, rest, rfl, performWord_eq w _⟩)

end Sys2Proof.Laws
end

