-- ==== Sys2Proof/Laws/PerInstr.lean ====
section
/-!
SUPPORT. Statements for all instructions, one lemma per constructor.

Family `RowMatch`: the word of an instruction matches its row of the opcode map and no other (R90).
-/

namespace Sys2Proof.Laws

/-- The row of the opcode map an instruction belongs to: match and mask (R90). -/
def rowOf : Instr → CmdWord × CmdWord
  | .loadkey _ => (0x400#12, 0xC00#12)
  | .encrypt _ => (0x800#12, 0xF00#12)
  | .decrypt _ => (0xC00#12, 0xF00#12)

/-- `(w AND mask) = match` for the encoded word and the instruction's row, and for no other row of the map (R90). -/
def RowMatch.Statement (i : Instr) : Prop :=
  ∀ row ∈ opcodeRows, (encode i &&& row.2 = row.1 ↔ row = rowOf i)

theorem RowMatch.loadkey (k : Bits 10) : RowMatch.Statement (.loadkey k) := by
  have h1 : ∀ k : Bits 10, encode (.loadkey k) &&& 0xC00#12 = 0x400#12 := by decide +kernel
  have h2 : ∀ k : Bits 10, encode (.loadkey k) &&& 0xF00#12 ≠ 0x800#12 := by decide +kernel
  have h3 : ∀ k : Bits 10, encode (.loadkey k) &&& 0xF00#12 ≠ 0xC00#12 := by decide +kernel
  simp [RowMatch.Statement, opcodeRows, rowOf, h1, h2, h3]

theorem RowMatch.encrypt (b : Bits 8) : RowMatch.Statement (.encrypt b) := by
  have h1 : ∀ b : Bits 8, encode (.encrypt b) &&& 0xC00#12 = 0x800#12 := by decide +kernel
  have h2 : ∀ b : Bits 8, encode (.encrypt b) &&& 0xF00#12 = 0x800#12 := by decide +kernel
  simp [RowMatch.Statement, opcodeRows, rowOf, h1, h2]

theorem RowMatch.decrypt (b : Bits 8) : RowMatch.Statement (.decrypt b) := by
  have h1 : ∀ b : Bits 8, encode (.decrypt b) &&& 0xC00#12 = 0xC00#12 := by decide +kernel
  have h2 : ∀ b : Bits 8, encode (.decrypt b) &&& 0xF00#12 = 0xC00#12 := by decide +kernel
  simp [RowMatch.Statement, opcodeRows, rowOf, h1, h2]

end Sys2Proof.Laws
end

