-- ==== Sys2Proof/Laws/Run.lean ====
section
/-!
SUPPORT. Runs of several steps: the unfolding of one step, and that `run` is the host's `Core.run`.
-/

namespace Sys2Proof.Laws

open Sys2Proof.Machine

@[simp] theorem run_zero (s : State) : run 0 s = .next s := rfl

/-- A run whose first step gives `t` goes on from `t`. -/
theorem run_succ_of_step {s t : State} (n : Nat) (h : step s = .next t) : run (n + 1) s = run n t := by
  simp [run, h]

/-- One step of the host's `Core.run`, for any machine. -/
theorem hostRun_succ (M : Host.Core) (n : Nat) (s : M.State) :
    M.run (n + 1) s = match M.step s with
      | .next t => M.run n t
      | .fault f => .fault f
      | .refused r => .refused r := by
  cases h : M.step s <;> simp [Host.Core.run, h]

/-- `run` is the host's `Core.run` of this machine. -/
theorem core_run_eq (n : Nat) (s : State) : core.run n s = run n s := by
  induction n generalizing s with
  | zero => rfl
  | succ n ih =>
    refine (hostRun_succ core n s).trans ?_
    cases h : core.step s with
    | next t => exact (ih t).trans (run_succ_of_step n h).symm
    | fault f => exact f.rec
    | refused r =>
      have h' : step s = .refused r := h
      simp only [run, h']
      rfl

/-- The response trace of a run whose first step gives `t`. -/
theorem rspTrace_succ_of_step {s t : State} (n : Nat) (h : step s = .next t) :
    rspTrace (n + 1) s = t.rsp :: rspTrace n t := by
  simp [rspTrace, h]

end Sys2Proof.Laws
end

