-- ==== Sys2Proof/Laws/Sequence.lean ====
section
/-!
SUPPORT. Sequences by position: what `ofPos`, `slice`, xor and concatenation hold at a position, that a sequence is what it
holds at its positions, and that a table's entries stay in range.
-/

namespace Sys2Proof.Laws

open Sys2Proof.Machine

/-- `ofPos n f` holds `f i` at position `i`. -/
theorem pos_ofPos {n : Nat} {f : Nat → Bool} {i : Nat} (h1 : 1 ≤ i) (h2 : i ≤ n) :
    pos (ofPos n f) i = f i := by
  induction n generalizing f i with
  | zero => omega
  | succ n ih =>
    obtain ⟨j, rfl⟩ : ∃ j, i = j + 1 := ⟨i - 1, by omega⟩
    simp only [pos, ofPos, Nat.add_sub_cancel, BitVec.getMsbD, BitVec.getLsbD_cons] at ih ⊢
    rcases Nat.eq_zero_or_pos j with rfl | hj
    · simp
    · have hne : n - j ≠ n := by omega
      have hidx : n - j = n - 1 - (j - 1) := by omega
      rw [← ih (f := fun i => f (i + 1)) hj (by omega), if_neg hne, hidx]
      have h1 : j < n + 1 := by omega
      have h2 : j - 1 < n := by omega
      simp [h1, h2]

/-- A sequence is what it holds at its positions (R10). -/
theorem ext_pos {n : Nat} {a b : Bits n} (h : ∀ i, 1 ≤ i → i ≤ n → pos a i = pos b i) : a = b := by
  apply BitVec.eq_of_getMsbD_eq
  intro i hi
  simpa [pos] using h (i + 1) (by omega) (by omega)

/-- Position-wise exclusive or (R13). -/
@[simp] theorem pos_xor {n : Nat} (a b : Bits n) (i : Nat) : pos (a ^^^ b) i = (pos a i ^^ pos b i) := by
  simp [pos]

/-- `s(i .. i+len-1)` holds at position `j` what `s` holds at `i + j - 1` (R10). -/
theorem pos_slice {n len i j : Nat} {s : Bits n} (h1 : 1 ≤ j) (h2 : j ≤ len) :
    pos (slice i len s) j = pos s (i + j - 1) :=
  pos_ofPos h1 h2

/-- The first `m` positions of `a ++ b` are those of `a` (R12). -/
theorem pos_append_left {m n i : Nat} {a : Bits m} {b : Bits n} (h1 : 1 ≤ i) (h2 : i ≤ m) :
    pos (a ++ b : BitVec (m + n)) i = pos a i := by
  simp only [pos, BitVec.getMsbD_append]
  rw [if_neg (by omega)]

/-- The positions of `a ++ b` after the first `m` are those of `b` (R12). -/
theorem pos_append_right {m n i : Nat} {a : Bits m} {b : Bits n} (h : 1 ≤ i) :
    pos (a ++ b : BitVec (m + n)) (m + i) = pos b i := by
  simp only [pos, BitVec.getMsbD_append]
  rw [if_pos (by omega)]
  congr 1
  omega

/-- Every entry of a table of shape `n→m` is a position of the source (R111). -/
theorem tableEntry_mem {n m j : Nat} (t : PermTable n m) (h1 : 1 ≤ j) (h2 : j ≤ m) :
    1 ≤ tableEntry t j ∧ tableEntry t j ≤ n := by
  have h := t.wf
  simp only [permWf, Bool.and_eq_true, beq_iff_eq, List.all_eq_true, decide_eq_true_eq] at h
  have hlt : j - 1 < t.entries.length := by omega
  have : tableEntry t j = t.entries[j - 1] := by simp [tableEntry, List.getD, hlt]
  rw [this]
  exact h.2 _ (List.getElem_mem hlt)

/-- IP after IPINV: `IP(IPINV(j)) = j` and `IPINV(IP(j)) = j` for `j = 1..8` (R118). -/
theorem tableEntry_inverse (T : Tbl) {j : Nat} (h1 : 1 ≤ j) (h2 : j ≤ 8) :
    tableEntry T.IPINV (tableEntry T.IP j) = j ∧ tableEntry T.IP (tableEntry T.IPINV j) = j := by
  have h := T.inverse
  simp only [inverseWf, List.all_eq_true, List.mem_range, Bool.and_eq_true, beq_iff_eq] at h
  have := h (j - 1) (by omega)
  simp only [tableEntry]
  omega

end Sys2Proof.Laws
end

