-- ==== Sys2Proof/Tests/Slice0.lean ====
section
/-!
SUPPORT. The model's own tests, with expected results from the spec's tables and examples, and one witness for the hypotheses of
each statement.
-/

namespace Sys2Proof.Tests

open Sys2Proof.Machine

/-! ## Checks: an ill-formed term for each, which the check refuses -/

/-- R91: `op = 00` is illegal. -/
theorem test_word_op_zero_refused : wordWf 0x000#12 = false := by decide
/-- R92: a pad other than 00 is illegal. -/
theorem test_word_pad_refused : wordWf 0x9D7#12 = false ∧ wordWf 0xFFF#12 = false := by decide
/-- R90: the boundary words of the three rows are legal. -/
theorem test_word_rows_legal :
    [0x400#12, 0x7FF#12, 0x800#12, 0x8FF#12, 0xC00#12, 0xCFF#12].all wordWf = true := by decide
/-- R212 (a), (b), (c): wrong length, element outside {0,1}. -/
theorem test_seq_refused :
    seqWf 10 [1, 0, 1, 0, 0, 0, 0, 0, 1] = false ∧ seqWf 8 [1, 1, 0, 1, 0, 1, 1, 1, 0] = false ∧
      seqWf 8 [1, 1, 0, 2, 0, 1, 1, 1] = false := by decide
/-- R111: wrong number of entries, entry 0, entry above n. -/
theorem test_perm_refused :
    permWf 4 4 [1, 2, 3] = false ∧ permWf 4 4 [0, 1, 2, 3] = false ∧ permWf 4 4 [1, 2, 3, 5] = false := by decide
/-- R118: two tables that do not undo each other. -/
theorem test_inverse_refused : inverseWf [2, 6, 3, 1, 4, 8, 5, 7] [2, 6, 3, 1, 4, 8, 5, 7] = false := by decide
/-- R119: an expansion that uses position 1 three times. -/
theorem test_twice_refused : twiceWf [1, 1, 1, 2, 2, 3, 4, 4] = false := by decide
/-- R150: a row of three, a value 4. -/
theorem test_sbox_refused :
    sboxWf [[1, 0, 3], [3, 2, 1, 0], [0, 2, 1, 3], [3, 1, 3, 2]] = false ∧
      sboxWf [[4, 0, 3, 2], [3, 2, 1, 0], [0, 2, 1, 3], [3, 1, 3, 2]] = false := by decide

/-- The default tables as lists (R121, R154, R155). -/
def rawDefault : RawTbl :=
  { P10 := [3, 5, 2, 7, 4, 10, 1, 9, 8, 6], P8 := [6, 3, 7, 4, 8, 5, 10, 9], IP := [2, 6, 3, 1, 4, 8, 5, 7]
    IPINV := [4, 1, 3, 5, 7, 2, 8, 6], EP := [4, 1, 2, 3, 2, 3, 4, 1], P4 := [2, 4, 3, 1]
    S0 := [[1, 0, 3, 2], [3, 2, 1, 0], [0, 2, 1, 3], [3, 1, 3, 2]]
    S1 := [[0, 1, 2, 3], [2, 0, 1, 3], [3, 0, 1, 0], [2, 1, 0, 3]] }

/-- R112: the default set loads as the default `TBL`; with IPINV replaced by IP it is refused. -/
theorem test_load : rawDefault.load = some tables ∧ ({ rawDefault with IPINV := rawDefault.IP } : RawTbl).load = none := by
  decide

/-! ## Decoding: words written out from the encodings -/

/-- R87: `01 1010000010`. -/
theorem test_decode_loadkey : decode 0b01_1010000010#12 = .ok (.loadkey 0b1010000010#10) := by decide
/-- R88: `10 00 11010111`. -/
theorem test_decode_encrypt : decode 0b10_00_11010111#12 = .ok (.encrypt 0b11010111#8) := by decide
/-- R83: `11 00 10101000`. -/
theorem test_decode_decrypt : decode 0b11_00_10101000#12 = .ok (.decrypt 0b10101000#8) := by decide
/-- R91, R92: the two rejections by name. -/
theorem test_decode_illegal :
    decode 0b00_1010000010#12 = .error .opZero ∧ decode 0b10_01_11010111#12 = .error .padNonzero ∧
      decode 0b11_10_00000000#12 = .error .padNonzero := by decide
/-- R90: the encoder's words (program P1 of 95_test_vectors.md). -/
theorem test_encode :
    encode (.loadkey 0b1010000010#10) = 0x682#12 ∧ encode (.encrypt 0b11010111#8) = 0x8D7#12 ∧
      encode (.decrypt 0b10101000#8) = 0xCA8#12 := by decide
/-- R81: the core has twelve wires; a value with a bit above them is no command word. -/
theorem test_table_word :
    decodeTableWord 16 0x8D7 = some (.encrypt 0b11010111#8) ∧ decodeTableWord 16 0x18D7 = none := by decide

/-! ## The datapath (95_test_vectors.md B1 to B5) -/

/-- B1: one vector for each of P10, P8, IP, IPINV, EP, P4. -/
theorem test_permute :
    permute 0b1111100000#10 tableP10 = 0b1110101000#10 ∧ permute 0b0010000011#10 tableP8 = 0b01000011#8 ∧
      permute 0b11010111#8 tableIP = 0b11011101#8 ∧ permute 0b00110010#8 tableIPINV = 0b10101000#8 ∧
      permute 0b1101#4 tableEP = 0b11101011#8 ∧ permute 0b0111#4 tableP4 = 0b1110#4 := by decide
/-- B2: two bits wrap, `r` is taken modulo `n`. -/
theorem test_rotate :
    rotate 0b11000#5 2 = 0b00011#5 ∧ rotate 0b10000#5 6 = 0b00001#5 ∧ rotate 0b10110#5 2 = 0b11010#5 := by decide
/-- B2: key 0111111101. -/
theorem test_keys : generateKeys tables 0b0111111101#10 = (0b01011111#8, 0b11111100#8) := by decide
/-- B3: row from the outer bits, column from the inner bits. -/
theorem test_sbox : sbox 0b0100#4 tableS0 = 0b11#2 ∧ sbox 0b1000#4 tableS1 = 0b11#2 ∧ sbox 0b1001#4 tableS1 = 0b10#2 := by
  decide
/-- B4. -/
theorem test_feistel :
    feistel tables 0b0010#4 0b01000011#8 = 0b1110#4 ∧ feistel tables 0b1010#4 0b01011111#8 = 0b1000#4 := by decide
/-- B5: traces T3 and T6. -/
theorem test_cipher :
    cipher tables 0b10010111#8 0b10100100#8 0b01000011#8 = 0b00111000#8 ∧
      cipher tables 0b11111111#8 0b11111111#8 0b11111111#8 = 0b00001111#8 := by decide +kernel
/-- R96: the source's list notation; a list of nine is no key. -/
theorem test_digits :
    ofDigits 10 [1, 0, 1, 0, 0, 0, 0, 0, 1, 0] = some 0x282#10 ∧ toDigits 0x282#10 = [1, 0, 1, 0, 0, 0, 0, 0, 1, 0] ∧
      ofDigits 10 [1, 0, 1, 0, 0, 0, 0, 0, 1] = none := by decide

/-! ## One step -/

/-- The core with the reference key loaded (program P1, after step 2). -/
def keyed (host : List HostEvent) : State :=
  { regs := { key := 0b1010000010#10, k1 := 0b10100100#8, k2 := 0b01000011#8, kv := true }, rsp := none
    host := host, fresh := 0 }

/-- The core right after reset, with these events of the host to come. -/
def fresh (host : List HostEvent) : State := { State.reset with host := host }

/-- The response word a step leaves on the port. -/
def rspOf (s : State) : Option RspWord :=
  match step s with
  | .next t => t.rsp.map Response.word
  | .fault _ => none
  | .refused _ => none

/-- The registers a step leaves. -/
def regsOf (s : State) : Option Regs :=
  match step s with
  | .next t => some t.regs
  | .fault _ => none
  | .refused _ => none

/-- P1 step 2: from reset. -/
theorem test_loadkey_from_reset :
    rspOf (fresh [.command 0x682#12]) = some 0x000#10 ∧ regsOf (fresh [.command 0x682#12]) = some (keyed []).regs := by
  decide
/-- P3 step 4: re-keying replaces all three registers. -/
theorem test_loadkey_again :
    regsOf (keyed [.command 0x5FD#12]) = some ⟨0b0111111101#10, 0b01011111#8, 0b11111100#8, true⟩ := by decide
/-- P1 step 3. -/
theorem test_encrypt : rspOf (keyed [.command 0x8D7#12]) = some 0x0A8#10 := by decide +kernel
/-- P2 step 2. -/
theorem test_encrypt_no_key : rspOf (fresh [.command 0x8D7#12]) = some 0x200#10 := by decide
/-- P1 step 4. -/
theorem test_decrypt : rspOf (keyed [.command 0xCA8#12]) = some 0x0D7#10 := by decide +kernel
/-- P2 step 3. -/
theorem test_decrypt_no_key : rspOf (fresh [.command 0xCA8#12]) = some 0x200#10 := by decide
/-- P2 steps 5 and 7: InvalidInput with and without a key; the low eight bits are not used (R216, R217). -/
theorem test_illegal_word :
    rspOf (fresh [.command 0x9D7#12]) = some 0x100#10 ∧ rspOf (keyed [.command 0x9D7#12]) = some 0x100#10 := by decide
/-- P4 step 10: reset answers nothing and clears KV. -/
theorem test_reset_event : rspOf (keyed [.reset]) = none ∧ (regsOf (keyed [.reset])).map Regs.kv = some false := by
  decide

/-! ## Listings (R95) -/

theorem test_assemble_reference :
    assembleLine "LOADKEY 1010000010      ; 10 digits, each 0 or 1".toList = some [.command 0x682#12] := by decide
theorem test_assemble_raw_and_reset :
    assembleLine ".word 0x9D7".toList = some [.command 0x9D7#12] ∧ assembleLine "RESET".toList = some [.reset] := by decide
theorem test_assemble_refuses :
    assembleLine "ENCRYPT 1101011".toList = none ∧ assembleLine "DECRYPT 10101002".toList = none ∧
      assembleLine ".word 0x1000".toList = none ∧ assembleLine "NOP".toList = none := by decide

/-! ## Witnesses: for each statement with hypotheses, terms that meet them -/

theorem witness_EncodeOfDecode : decode 0x682#12 = .ok (.loadkey 0x282#10) := by decide
theorem witness_OperandBitsOnWires :
    decode 0x7FF#12 = .ok (.loadkey 0x3FF#10) ∧ decode 0x8FF#12 = .ok (.encrypt 0xFF#8) ∧
      decode 0xC00#12 = .ok (.decrypt 0x00#8) := by decide
theorem witness_OperandSyntax :
    parseBits 4 "1011".toList = some 0b1011#4 ∧ parseBits 4 "101".toList = none ∧ parseBits 4 "10x1".toList = none := by
  decide
theorem witness_IllFormedTablesRefused :
    rawDefault.load = some tables ∧ ({ rawDefault with P4 := [2, 4, 3, 5] } : RawTbl).load = none := by decide

/-- The identity table of shape 4→4. -/
def idTable : PermTable 4 4 := ⟨[1, 2, 3, 4], by decide⟩
/-- The reversing table of shape 4→4. -/
def revTable : PermTable 4 4 := ⟨[4, 3, 2, 1], by decide⟩

theorem witness_PermuteLaws_identity : ∀ j, 1 ≤ j → j ≤ 4 → tableEntry idTable j = j := by
  intro j h1 h2; interval_cases j <;> decide
theorem witness_PermuteLaws_reversal : ∀ j, 1 ≤ j → j ≤ 4 → tableEntry revTable j = 4 + 1 - j := by
  intro j h1 h2; interval_cases j <;> decide
theorem witness_PermuteLaws_composition :
    ∀ j, 1 ≤ j → j ≤ 4 → tableEntry idTable j = tableEntry revTable (tableEntry revTable j) := by
  intro j h1 h2; interval_cases j <;> decide
theorem witness_PermuteLaws_bijection : ∀ v, 1 ≤ v → v ≤ 10 → tableP10.entries.count v = 1 := by
  intro v h1 h2; interval_cases v <;> decide

theorem witness_PermuteByPositions : 1 ≤ 8 ∧ 8 ≤ 8 ∧ tableEntry tableIP 1 = 2 ∧ tableEntry tableIP 8 = 7 := by decide
theorem witness_RotateByPositions : 1 ≤ 5 ∧ 6 % 5 = 1 := by decide
/-- Both halves occur: the first entry of P8 is in the right half, the second in the left half. -/
theorem witness_SubkeysByRotatedHalves : ¬tableEntry tableP8 1 ≤ 5 ∧ tableEntry tableP8 2 ≤ 5 ∧ 1 ≤ 8 := by decide
theorem witness_DefaultScheduleWiring_K1 :
    (∀ i, 1 ≤ i → i ≤ 10 → i ≠ 2 → i ≠ 5 → pos 0b0100100000#10 i = pos 0#10 i) ∧ 0b0100100000#10 ≠ 0#10 := by
  refine ⟨?_, by decide⟩
  intro i h1 h2 h3 h4; interval_cases i <;> first | contradiction | decide
theorem witness_DefaultScheduleWiring_K2 :
    (∀ i, 1 ≤ i → i ≤ 10 → i ≠ 4 → i ≠ 7 → pos 0b0001001000#10 i = pos 0#10 i) ∧ 0b0001001000#10 ≠ 0#10 := by
  refine ⟨?_, by decide⟩
  intro i h1 h2 h3 h4; interval_cases i <;> first | contradiction | decide
theorem witness_KeysWithEqualSubkeys :
    (generateKeys tables 0b1000010111#10).1 = (generateKeys tables 0b1000010111#10).2 := by decide
theorem witness_ExpansionUsesEachBitTwice : 1 ≤ 4 ∧ 4 ≤ 4 ∧ tableEntry tableEP 1 = 4 ∧ tableEntry tableEP 8 = 1 := by decide
theorem witness_CipherIsTwoRounds :
    permute 0b11010111#8 tables.IP = (0b1101#4 ++ 0b1101#4 : BitVec (4 + 4)) := by decide
theorem witness_EqualSubkeysGiveInvolution : ({ key := 0#10, k1 := 0#8, k2 := 0#8, kv := true } : Regs).k1 = 0#8 := rfl

theorem witness_EncryptCompletes : (keyed []).regs.kv = true := rfl
theorem witness_DecryptCompletes : (keyed []).regs.kv = true := rfl
theorem witness_KeyNotLoadedAnswer : (fresh []).regs.kv = false := rfl
theorem witness_LoadkeyWord :
    (fresh [.command 0x400#12]).host = .command 0x400#12 :: [] ∧ (0x400#12).extractLsb' 10 2 = 0b01#2 := by decide
/-- The three outcomes: a pad, no key, a key. -/
theorem witness_EncryptWord :
    (0x8FF#12).extractLsb' 10 2 = 0b10#2 ∧ (0x900#12).extractLsb' 10 2 = 0b10#2 ∧ (0x900#12).extractLsb' 8 2 ≠ 0b00#2 ∧
      (fresh [.command 0x8FF#12]).regs.kv = false ∧ (keyed [.command 0x8FF#12]).regs.kv = true := by decide
theorem witness_DecryptWord :
    (0xCFF#12).extractLsb' 10 2 = 0b11#2 ∧ (0xD00#12).extractLsb' 10 2 = 0b11#2 ∧ (0xD00#12).extractLsb' 8 2 ≠ 0b00#2 ∧
      (fresh [.command 0xCFF#12]).regs.kv = false ∧ (keyed [.command 0xCFF#12]).regs.kv = true := by decide
theorem witness_IllegalWordAnswer :
    (0x3FF#12).extractLsb' 10 2 = 0b00#2 ∧
      ((0x900#12).extractLsb' 10 2 = 0b10#2 ∧ (0x900#12).extractLsb' 8 2 ≠ 0b00#2) ∧
      ((0xFFF#12).extractLsb' 10 2 = 0b11#2 ∧ (0xFFF#12).extractLsb' 8 2 ≠ 0b00#2) := by decide
theorem witness_SubkeySelectByWire10 :
    (0x8D7#12).getLsbD 11 = true ∧ (0x8D7#12).getLsbD 10 = false ∧ (0xCD7#12).getLsbD 11 = true ∧
      (0xCD7#12).getLsbD 10 = true ∧ (0xCD7#12).extractLsb' 8 2 = 0b00#2 ∧ (keyed []).regs.kv = true := by decide
theorem witness_InstructionFrames : ∃ t u, exec (.loadkey 1#10) (keyed []) = .next t ∧ exec (.encrypt 1#8) (keyed []) = .next u :=
  ⟨_, _, rfl, rfl⟩

/-- The core with the reference key meets the invariant, with any events of the host to come. -/
theorem keyed_coreInv (host : List HostEvent) : CoreInv (keyed host) :=
  { consistent := fun _ => show (0b10100100#8, 0b01000011#8) = generateKeys tables 0b1010000010#10 by decide
    quiet := fun r h => by cases h
    noKey := fun r h => by cases h }

theorem witness_RekeyingRules :
    CoreInv (keyed []) ∧ (keyed []).regs.kv = true ∧ (keyed []).host = (fresh []).host ∧
      (0x8D7#12).extractLsb' 10 2 ≠ 0b01#2 ∧ ∃ t, step (keyed [.command 0x8D7#12]) = .next t :=
  ⟨keyed_coreInv [], rfl, rfl, by decide, _, rfl⟩
/-- The clause about later block commands: a LOADKEY with an illegal word to come, and one step after it. -/
theorem witness_RekeyingRules_later :
    (∀ e ∈ (keyed [.command 0x9D7#12]).host,
      e ≠ .reset ∧ ∀ w k', e = .command w → decode w ≠ .ok (.loadkey k')) ∧
      ∃ t u, exec (.loadkey 0x1FD#10) (keyed [.command 0x9D7#12]) = .next t ∧ run 1 t = .next u := by
  refine ⟨?_, _, _, rfl, rfl⟩
  intro e he
  simp only [keyed, List.mem_singleton] at he
  subst he
  refine ⟨by decide, ?_⟩
  intro w k hw
  cases hw
  rw [show decode 0x9D7#12 = .error .padNonzero by decide]
  simp
theorem witness_StepRunsDecoded :
    (keyed [.command 0x8D7#12]).host = .command 0x8D7#12 :: [] ∧ decode 0x8D7#12 = .ok (.encrypt 0xD7#8) := by decide
theorem witness_IdleKeepsRegisters : (keyed []).host = [] := rfl
theorem witness_ResetEvent : (keyed [.reset]).host = .reset :: [] := rfl
/-- One step for each of the five events. -/
theorem witness_StateChangePerEvent :
    (∃ t, step (keyed [.reset]) = .next t) ∧ (∃ t, step (keyed [.command 0x682#12]) = .next t) ∧
      (∃ t, step (keyed [.command 0x8D7#12]) = .next t) ∧ (∃ t, step (keyed [.command 0xCD7#12]) = .next t) ∧
      (∃ t, step (keyed [.command 0x9D7#12]) = .next t) ∧ decode 0x682#12 = .ok (.loadkey 0x282#10) ∧
      decode 0x8D7#12 = .ok (.encrypt 0xD7#8) ∧ decode 0xCD7#12 = .ok (.decrypt 0xD7#8) ∧
      decode 0x9D7#12 = .error .padNonzero :=
  ⟨⟨_, rfl⟩, ⟨_, rfl⟩, ⟨_, rfl⟩, ⟨_, rfl⟩, ⟨_, rfl⟩, by decide, by decide, by decide, by decide⟩
theorem witness_KeyValidChangesOnlyBy :
    (∃ t, step (fresh [.command 0x682#12]) = .next t ∧ (fresh []).regs.kv = false ∧ t.regs.kv = true) ∧
      (∃ t, step (keyed [.reset]) = .next t ∧ (keyed []).regs.kv = true ∧ t.regs.kv = false) :=
  ⟨⟨_, rfl, rfl, rfl⟩, ⟨_, rfl, rfl, rfl⟩⟩
theorem witness_InstanceKeepsRegisters :
    (∀ e ∈ (keyed [.command 0x8D7#12]).host,
      e ≠ .reset ∧ ∀ w k, e = .command w → decode w ≠ .ok (.loadkey k)) ∧
      ∃ t, run 1 (keyed [.command 0x8D7#12]) = .next t := by
  refine ⟨?_, _, rfl⟩
  intro e he
  simp only [keyed, List.mem_singleton] at he
  subst he
  refine ⟨by decide, ?_⟩
  intro w k hw
  cases hw
  rw [show decode 0x8D7#12 = .ok (.encrypt 0xD7#8) by decide]
  simp
theorem witness_OneResponsePerCommand : ∃ t, step (keyed [.command 0x8D7#12]) = .next t := ⟨_, rfl⟩
theorem witness_ErrorsChangeNothing :
    ∃ t r, step (keyed [.command 0x9D7#12, .command 0x8D7#12]) = .next t ∧ t.rsp = some r ∧ r.st ≠ .ok :=
  ⟨_, _, rfl, rfl, by decide⟩
theorem witness_StepKeepsInvariant : CoreInv (keyed [.reset]) ∧ ∃ t, step (keyed [.reset]) = .next t :=
  ⟨keyed_coreInv _, _, rfl⟩
theorem witness_ReachableSubkeysMatchKey :
    ∃ s, run 1 { State.reset with host := [.command 0x682#12] } = .next s ∧ s.regs.kv = true := ⟨_, rfl, rfl⟩
/-- Two states alike to the host that differ in all three data registers, and two with a key that differ in KEY. -/
theorem witness_UnreadRegistersUnobservable :
    SameToHost (fresh [.command 0x8D7#12])
      { fresh [.command 0x8D7#12] with regs := { key := 1#10, k1 := 1#8, k2 := 1#8, kv := false } } ∧
    SameToHost (keyed []) { keyed [] with regs := { (keyed []).regs with key := 1#10 } } :=
  ⟨⟨rfl, rfl, (fun h => by cases h), (fun h => by cases h)⟩, ⟨rfl, rfl, fun _ => rfl, fun _ => rfl⟩⟩
theorem witness_CommandsRoundTrip :
    (∀ e ∈ [HostEvent.command 0x9D7#12] ++ [HostEvent.command 0x9D7#12],
      e ≠ .reset ∧ ∀ w k, e = .command w → decode w ≠ .ok (.loadkey k)) ∧
      (fresh [.command 0x682#12, .command 0x9D7#12, .command 0x8D7#12, .command 0x9D7#12]).host =
        .command (encode (.loadkey 0x282#10)) ::
          ([.command 0x9D7#12] ++ .command (encode (.encrypt 0xD7#8)) :: [.command 0x9D7#12]) := by
  refine ⟨?_, by decide⟩
  intro e he
  simp only [List.cons_append, List.nil_append, List.mem_cons, List.not_mem_nil, or_false, or_self] at he
  subst he
  refine ⟨by decide, ?_⟩
  intro w k hw
  cases hw
  rw [show decode 0x9D7#12 = .error .padNonzero by decide]
  simp

/-- A port that answers after `n` cycles, without overlap. -/
def port (n : Nat) : PortConfig := { lat := fun _ => n, overlap := false, overlapOk := fun h => by cases h }
/-- A port that answers after one cycle, ready again in the cycle of the response. -/
def portOverlap : PortConfig := { lat := fun _ => 1, overlap := true, overlapOk := fun _ _ => by decide }
/-- A cycle with this command presented. -/
def cyc (w : Option CmdWord) : Pins := { rst := false, cmd := w }

/-- The three ways to be busy: reset, a response still to come, a response in this cycle without overlap. -/
theorem witness_BusyPortAcceptsNothing :
    ({ core := keyed [], flight := some ⟨0x8D7#12, 1⟩ } : PortState).flight = some ⟨0x8D7#12, 1⟩ ∧
      (⟨0x8D7#12, 1⟩ : InFlight).left ≠ 0 ∧ (⟨0x8D7#12, 0⟩ : InFlight).left = 0 ∧ (port 1).overlap = false := by decide
/-- Latency 0 and latency 2. -/
theorem witness_ResponseAfterLatency :
    PortState.reset.flight = none ∧ (cyc (some 0x682#12)).rst = false ∧ (cyc (some 0x682#12)).cmd = some 0x682#12 ∧
      ([] : List Pins).length = latOf (port 0) 0x682#12 ∧ (∀ i ∈ [cyc none, cyc none], i.rst = false) ∧
      [cyc none, cyc none].length = latOf (port 2) 0x682#12 := by
  refine ⟨rfl, rfl, rfl, rfl, ?_, rfl⟩
  intro i hi
  simp only [List.mem_cons, List.not_mem_nil, or_false, or_self] at hi
  subst hi
  rfl
theorem witness_AcceptedCommandsPerformedInOrder : ∀ i ∈ [cyc (some 0x682#12)], i.rst = false := by
  intro i hi
  simp only [List.mem_singleton] at hi
  subst hi
  rfl

/-- R248, R255: with latency 1 and no overlap, the word presented in the cycle of the response is not accepted; with overlap it
is. -/
theorem test_port_overlap :
    (portOuts (port 1) PortState.reset [cyc (some 0x682#12), cyc (some 0x8D7#12)]).map PortOut.ready = [true, false] ∧
      (portOuts portOverlap PortState.reset [cyc (some 0x682#12), cyc (some 0x8D7#12), cyc none]).map PortOut.rsp =
        [none, some 0x000#10, some 0x0A8#10] := by decide +kernel
/-- R242: reset with LOADKEY in flight: no response, and the core has no key. -/
theorem test_port_reset_in_flight :
    (portOuts (port 2) PortState.reset [cyc (some 0x682#12), ⟨true, none⟩, cyc none, cyc none]).map PortOut.rsp =
        [none, none, none, none] ∧
      (portAfter (port 2) PortState.reset [cyc (some 0x682#12), ⟨true, none⟩]).core.regs.kv = false := by decide
/-- Program P5: a step of core 1 leaves core 0 as it was. -/
theorem test_two_cores :
    (stepCore (#v[keyed [], keyed [.command 0x5FD#12]] : System 2) 1)[0] = keyed [] := by decide

end Sys2Proof.Tests
end

section
/-!
PROOFS. What one step leaves in the registers, by the event it takes: the rules a step follows, each said once, and
the table of R47 assembled from them.
-/

namespace Sys2Proof.Proofs

open Sys2Proof.Machine Sys2Proof.Laws

section Decoded
variable {w : CmdWord}

theorem decodeCommand_of_ok {i : Instr} (h : decode w = .ok i) : decodeCommand w = .legal i := by
  simp only [decodeCommand, h]

theorem decodeCommand_of_error {e : IllegalWord} (h : decode w = .error e) : decodeCommand w = .illegal := by
  simp only [decodeCommand, h]

end Decoded

section PerformedRegs
variable (T : Tbl) (r : Regs) (k : Bits 10) (b : Bits 8)

@[simp] theorem perform_loadkey_regs :
    (perform T r (.legal (.loadkey k))).1 = ⟨k, (generateKeys T k).1, (generateKeys T k).2, true⟩ :=
  congrArg Prod.fst (loadKey_spec T k r)

@[simp] theorem perform_encrypt_regs : (perform T r (.legal (.encrypt b))).1 = r :=
  congrArg Prod.fst (encryptBlock_spec T b r)

@[simp] theorem perform_decrypt_regs : (perform T r (.legal (.decrypt b))).1 = r :=
  congrArg Prod.fst (decryptBlock_spec T b r)

@[simp] theorem perform_illegal_regs : (perform T r .illegal).1 = r :=
  congrArg Prod.fst (raiseError_spec .invalidInput r)

end PerformedRegs

section StepByEvent
variable {s t : State} {w : CmdWord} {rest : List HostEvent}

theorem step_of_reset (hs : s.host = .reset :: rest) :
    step s = .next (resetCore { s with host := rest }) := by
  rcases step_cases s with ⟨h, _⟩ | ⟨rest', h, hstep⟩ | ⟨w, rest', h, _⟩
  · rw [hs] at h; cases h
  · rw [hs] at h; cases h; exact hstep
  · rw [hs] at h; cases h

theorem step_of_command (hs : s.host = .command w :: rest) :
    step s = .next (answer (perform tables s.regs (decodeCommand w)) { s with host := rest }) := by
  rcases step_cases s with ⟨h, _⟩ | ⟨rest', h, _⟩ | ⟨w', rest', h, hstep⟩
  · rw [hs] at h; cases h
  · rw [hs] at h; cases h
  · rw [hs] at h; cases h; exact hstep

theorem kv_of_reset_step (hstep : step s = .next t) (hs : s.host = .reset :: rest) : t.regs.kv = false := by
  rw [step_of_reset hs] at hstep
  cases hstep
  exact resetCore_kv _

/-- A command leaves in the registers what the spec's `step` gives for it (R19). -/
theorem regs_of_command_step (hstep : step s = .next t) (hs : s.host = .command w :: rest) :
    t.regs = (perform tables s.regs (decodeCommand w)).1 := by
  rw [step_of_command hs] at hstep
  cases hstep
  exact answer_regs _ _

/-- The same for a word that decodes. -/
theorem regs_of_legal_step {i : Instr} (hstep : step s = .next t) (hs : s.host = .command w :: rest)
    (hw : decode w = .ok i) : t.regs = (perform tables s.regs (.legal i)).1 := by
  rw [regs_of_command_step hstep hs, decodeCommand_of_ok hw]

/-- An illegal word keeps the registers (R211). -/
theorem regs_of_illegal_step {e : IllegalWord} (hstep : step s = .next t) (hs : s.host = .command w :: rest)
    (hw : decode w = .error e) : t.regs = s.regs := by
  rw [regs_of_command_step hstep hs, decodeCommand_of_error hw, perform_illegal_regs]

end StepByEvent

/-- Settles O43: one case per row of the table in R47, each by the rule for the event the step takes. -/
theorem stateChangePerEvent : Obligations.StateChangePerEvent := by
  intro s t hstep
  refine ⟨?reset, ?loadkey, ?encrypt, ?decrypt, ?illegal⟩
  case reset =>
    intro rest hs
    exact kv_of_reset_step hstep hs
  case loadkey =>
    intro w rest k hs hw
    rw [regs_of_legal_step hstep hs hw, perform_loadkey_regs]
    exact ⟨rfl, rfl, rfl⟩
  case encrypt =>
    intro w rest b hs hw
    rw [regs_of_legal_step hstep hs hw, perform_encrypt_regs]
  case decrypt =>
    intro w rest b hs hw
    rw [regs_of_legal_step hstep hs hw, perform_decrypt_regs]
  case illegal =>
    intro w rest e hs hw
    exact regs_of_illegal_step hstep hs hw

end Sys2Proof.Proofs
end

section
/-!
PROOFS. Several cores: a step of one core of a system is that core's own step, and no other core sees it (R225); a schedule
therefore gives each core just its own steps (R74).
-/

namespace Sys2Proof.Proofs

open Sys2Proof.Machine Sys2Proof.Laws

/-- No step stops the core (R215, R253). -/
theorem exists_step_eq_next (s : State) : ∃ t, step s = .next t := by
  rcases step_cases s with ⟨_, h⟩ | ⟨_, _, h⟩ | ⟨_, _, _, h⟩ <;> exact ⟨_, h⟩

section SystemStep
variable {n : Nat} (sys : System n) {i j : Fin n}

theorem stepCore_of_step {t : State} (h : step sys[i] = .next t) : stepCore sys i = sys.set i t := by
  simp only [stepCore, h]

variable (i) in
/-- The core that steps takes its own step, whatever the other cores hold. -/
theorem step_eq_next_stepCore_self : step sys[i] = .next (stepCore sys i)[i] := by
  obtain ⟨t, h⟩ := exists_step_eq_next sys[i]
  have hself : (sys.set i t)[i] = t := Vector.getElem_set_self i.isLt
  rw [stepCore_of_step sys h, hself, h]

/-- The frame of a system's step: every other core is as it was (R225). -/
theorem stepCore_getElem_of_ne (hij : i ≠ j) : (stepCore sys i)[j] = sys[j] := by
  obtain ⟨t, h⟩ := exists_step_eq_next sys[i]
  rw [stepCore_of_step sys h]
  exact Vector.getElem_set_ne i.isLt j.isLt (Fin.val_ne_of_ne hij)

end SystemStep

/-- Settles O60, by induction on the schedule: its next step is the first of core `j`'s own run, or leaves core `j` as it
was. -/
theorem coresRunAsIfAlone : Obligations.CoresRunAsIfAlone := by
  intro n sys schedule j
  induction schedule generalizing sys with
  | nil => exact run_zero sys[j]
  | cons i is ih =>
    rw [runSchedule, ← ih (stepCore sys i)]
    rcases eq_or_ne i j with rfl | hij
    · rw [List.count_cons_self]
      exact run_succ_of_step _ (step_eq_next_stepCore_self sys i)
    · rw [List.count_cons_of_ne hij, stepCore_getElem_of_ne sys hij]

end Sys2Proof.Proofs
end

section
/-!
PROOFS. The two words of the ports. A command word is its three fields (R81, R83): a row of the opcode map is a condition on
them (R90), the decoder answers by them (R93), and a position of an operand is a wire (R87, R88). A response word is its two
fields (R84, R89).
-/

namespace Sys2Proof.Proofs

open Sys2Proof.Machine

section Fields
variable {v w : CmdWord}

theorem opField_append_padField_append_blkField (w : CmdWord) :
    (opField w ++ (padField w ++ blkField w) : BitVec (2 + (2 + 8))) = w := by
  unfold opField padField blkField
  rw [BitVec.extractLsb'_append_extractLsb'_eq_extractLsb' (by decide),
    BitVec.extractLsb'_append_extractLsb'_eq_extractLsb' (by decide)]
  exact BitVec.extractLsb'_eq_self

theorem word_eq_iff_fields :
    v = w ↔ opField v = opField w ∧ padField v = padField w ∧ blkField v = blkField w := by
  constructor
  · rintro rfl
    exact ⟨rfl, rfl, rfl⟩
  · rintro ⟨hop, hpad, hblk⟩
    rw [← opField_append_padField_append_blkField v, hop, hpad, hblk, opField_append_padField_append_blkField]

@[simp] theorem opField_and : opField (v &&& w) = opField v &&& opField w := BitVec.extractLsb'_and
@[simp] theorem padField_and : padField (v &&& w) = padField v &&& padField w := BitVec.extractLsb'_and
@[simp] theorem blkField_and : blkField (v &&& w) = blkField v &&& blkField w := BitVec.extractLsb'_and

theorem opField_cases (w : CmdWord) :
    opField w = 0b00#2 ∨ opField w = 0b01#2 ∨ opField w = 0b10#2 ∨ opField w = 0b11#2 := by
  generalize opField w = op
  revert op
  decide

/-- The row of LOADKEY: its mask keeps `op` and clears the other fields (R90). -/
theorem and_C00_eq_400_iff : w &&& 0xC00#12 = 0x400#12 ↔ opField w = 0b01#2 := by
  have hop : opField 0xC00#12 = BitVec.allOnes 2 ∧ opField 0x400#12 = 0b01#2 := by decide
  have hpad : padField 0xC00#12 = 0#2 ∧ padField 0x400#12 = 0#2 := by decide
  have hblk : blkField 0xC00#12 = 0#8 ∧ blkField 0x400#12 = 0#8 := by decide
  rw [word_eq_iff_fields]
  simp only [opField_and, padField_and, blkField_and, hop, hpad, hblk, BitVec.and_allOnes, BitVec.and_zero, and_true]

/-- The rows of ENCRYPT and DECRYPT, with match `m`: their mask keeps `op` and `pad` and clears the block (R90). -/
theorem and_F00_eq_iff {m : CmdWord} (hblk : blkField m = 0#8) :
    w &&& 0xF00#12 = m ↔ opField w = opField m ∧ padField w = padField m := by
  have hmask : opField 0xF00#12 = BitVec.allOnes 2 ∧ padField 0xF00#12 = BitVec.allOnes 2 ∧ blkField 0xF00#12 = 0#8 := by
    decide
  rw [word_eq_iff_fields]
  simp only [opField_and, padField_and, blkField_and, hmask, hblk, BitVec.and_allOnes, BitVec.and_zero, and_true]

end Fields

section Decoder
variable {w : CmdWord}

/-- Which command a word is, by its fields (R90, R93). -/
theorem decode_eq_ok_iff {i : Instr} :
    decode w = .ok i ↔
      (opField w = 0b01#2 ∧ .loadkey (keyField w) = i) ∨
      (opField w = 0b10#2 ∧ padField w = 0b00#2 ∧ .encrypt (blkField w) = i) ∨
      (opField w = 0b11#2 ∧ padField w = 0b00#2 ∧ .decrypt (blkField w) = i) := by
  unfold decode
  by_cases hpad : padField w = 0b00#2 <;> rcases opField_cases w with hop | hop | hop | hop <;> simp [hop, hpad]

/-- Why a word is illegal, by its fields (R91, R92). -/
theorem decode_eq_error_iff {e : IllegalWord} :
    decode w = .error e ↔
      (opField w = 0b00#2 ∧ .opZero = e) ∨
      ((opField w = 0b10#2 ∨ opField w = 0b11#2) ∧ padField w ≠ 0b00#2 ∧ .padNonzero = e) := by
  unfold decode
  by_cases hpad : padField w = 0b00#2 <;> rcases opField_cases w with hop | hop | hop | hop <;> simp [hop, hpad]

theorem decode_eq_loadkey_iff {k : Bits 10} :
    decode w = .ok (.loadkey k) ↔ opField w = 0b01#2 ∧ keyField w = k := by
  simp [decode_eq_ok_iff]

theorem decode_eq_encrypt_iff {b : Bits 8} :
    decode w = .ok (.encrypt b) ↔ opField w = 0b10#2 ∧ padField w = 0b00#2 ∧ blkField w = b := by
  simp [decode_eq_ok_iff]

theorem decode_eq_decrypt_iff {b : Bits 8} :
    decode w = .ok (.decrypt b) ↔ opField w = 0b11#2 ∧ padField w = 0b00#2 ∧ blkField w = b := by
  simp [decode_eq_ok_iff]

end Decoder

section Rows
variable {w : CmdWord}

theorem loadkey_row_iff : (∃ k, decode w = .ok (.loadkey k)) ↔ w &&& 0xC00#12 = 0x400#12 := by
  simp [decode_eq_loadkey_iff, and_C00_eq_400_iff]

theorem encrypt_row_iff : (∃ b, decode w = .ok (.encrypt b)) ↔ w &&& 0xF00#12 = 0x800#12 := by
  have hm : opField 0x800#12 = 0b10#2 ∧ padField 0x800#12 = 0b00#2 := by decide
  simp [decode_eq_encrypt_iff, and_F00_eq_iff (m := 0x800#12) (by decide), hm]

theorem decrypt_row_iff : (∃ b, decode w = .ok (.decrypt b)) ↔ w &&& 0xF00#12 = 0xC00#12 := by
  have hm : opField 0xC00#12 = 0b11#2 ∧ padField 0xC00#12 = 0b00#2 := by decide
  simp [decode_eq_decrypt_iff, and_F00_eq_iff (m := 0xC00#12) (by decide), hm]

/-- The check accepts the words of the three rows. -/
theorem wordWf_iff :
    wordWf w = true ↔ w &&& 0xC00#12 = 0x400#12 ∨ w &&& 0xF00#12 = 0x800#12 ∨ w &&& 0xF00#12 = 0xC00#12 := by
  simp [wordWf, opcodeRows]

theorem exists_instr_iff {p : Instr → Prop} :
    (∃ i, p i) ↔ (∃ k, p (.loadkey k)) ∨ (∃ b, p (.encrypt b)) ∨ (∃ b, p (.decrypt b)) := by
  constructor
  · rintro ⟨k | b | b, h⟩
    · exact .inl ⟨k, h⟩
    · exact .inr (.inl ⟨b, h⟩)
    · exact .inr (.inr ⟨b, h⟩)
  · rintro (⟨_, h⟩ | ⟨_, h⟩ | ⟨_, h⟩) <;> exact ⟨_, h⟩

/-- Settles O3. Each row is a command of the decoder; two rows are disjoint because a word decodes to one command only. -/
theorem opcodeMapRows : Obligations.OpcodeMapRows := by
  intro w
  refine ⟨loadkey_row_iff, encrypt_row_iff, decrypt_row_iff, ?_, ?_, ?_, ?wf⟩
  case wf => rw [wordWf_iff, exists_instr_iff, loadkey_row_iff, encrypt_row_iff, decrypt_row_iff]
  all_goals
    simp only [← loadkey_row_iff, ← encrypt_row_iff, ← decrypt_row_iff]
    rintro ⟨⟨_, h⟩, ⟨_, h'⟩⟩
    cases h.symm.trans h'

end Rows

section Wires

/-- The low field of width `n` of a word holds at position `i` what the word carries on wire `n - i` (R87, R88, R89). -/
theorem pos_extractLsb'_zero {m n i : Nat} (w : BitVec m) (h1 : 1 ≤ i) (h2 : i ≤ n) :
    pos (w.extractLsb' 0 n) i = w.getLsbD (n - i) := by
  have hidx : n - 1 - (i - 1) = n - i := by omega
  have hlt : i - 1 < n ∧ n - i < n := by omega
  simp [pos, BitVec.getMsbD_eq_getLsbD, hidx, hlt]

theorem toNat_keyField (w : CmdWord) : (keyField w).toNat = w.toNat % 1024 := BitVec.extractLsb'_toNat 0 10 w

theorem toNat_blkField (w : CmdWord) : (blkField w).toNat = w.toNat % 256 := BitVec.extractLsb'_toNat 0 8 w

theorem blkField_of_decode_block {w : CmdWord} {b : Bits 8}
    (h : decode w = .ok (.encrypt b) ∨ decode w = .ok (.decrypt b)) : blkField w = b := by
  rcases h with h | h
  · obtain ⟨-, -, hblk⟩ := decode_eq_encrypt_iff.mp h
    exact hblk
  · obtain ⟨-, -, hblk⟩ := decode_eq_decrypt_iff.mp h
    exact hblk

/-- Settles O5: the operand the decoder gives is the word's low field. -/
theorem operandBitsOnWires : Obligations.OperandBitsOnWires := by
  refine ⟨?key, ?block, by decide, by decide⟩
  case key =>
    intro w k h
    obtain ⟨-, rfl⟩ := decode_eq_loadkey_iff.mp h
    exact ⟨fun i => pos_extractLsb'_zero w, toNat_keyField w⟩
  case block =>
    intro w b h
    obtain rfl := blkField_of_decode_block h
    exact ⟨fun i => pos_extractLsb'_zero w, toNat_blkField w⟩

end Wires

section ResponseWord
variable (r : Response)

theorem word_status : r.word.extractLsb' 8 2 = r.st.code := BitVec.extractLsb'_append_eq_left

theorem word_data : r.word.extractLsb' 0 8 = r.data := BitVec.extractLsb'_append_eq_right

theorem toNat_word : r.word.toNat = 256 * r.st.code.toNat + r.data.toNat := by
  calc r.word.toNat = r.st.code.toNat <<< 8 + r.data.toNat := by
        rw [Nat.shiftLeft_add_eq_or_of_lt r.data.isLt]
        exact BitVec.toNat_append _ _
    _ = 256 * r.st.code.toNat + r.data.toNat := by rw [Nat.shiftLeft_eq, Nat.mul_comm]

theorem code_ne_three (st : Status) : st.code ≠ 0b11#2 := by
  cases st <;> decide

theorem ofWord_word : Response.ofWord r.word = some r := by
  obtain ⟨st, data⟩ := r
  unfold Response.ofWord
  rw [word_status, word_data]
  cases st <;> rfl

/-- Settles O6: both fields and the number of the word follow from its being `st ++ data`; no status has the code 3. -/
theorem responseWordLayout : Obligations.ResponseWordLayout := by
  refine ⟨fun r => ⟨word_status r, ?data, toNat_word r, ?status, ofWord_word r⟩, rfl, rfl, rfl, by decide⟩
  case data =>
    intro i h1 h2
    rw [← word_data r, pos_extractLsb'_zero r.word h1 h2]
  case status =>
    rw [word_status]
    exact code_ne_three r.st

end ResponseWord

section IllegalWord
variable {w : CmdWord}

theorem exists_decode_eq_error_iff :
    (∃ e, decode w = .error e) ↔
      opField w = 0b00#2 ∨ (opField w = 0b10#2 ∨ opField w = 0b11#2) ∧ padField w ≠ 0b00#2 := by
  simp only [decode_eq_error_iff, exists_or, exists_and_left, exists_eq', and_true]

/-- An illegal word is answered the same in every state, with or without a key (R211, R217). -/
theorem step_of_illegal_word {s : State} {rest : List HostEvent} {e : IllegalWord}
    (hs : s.host = .command w :: rest) (hw : decode w = .error e) :
    step s = .next { s with rsp := some ⟨.invalidInput, 0#8⟩, host := rest } := by
  rw [step_of_command hs, decodeCommand_of_error hw]
  rfl

/-- Settles O33: the fields of the word make it one the decoder rejects, and such a word is answered before KV is looked
at; the example of R217 is a run of two steps. -/
theorem illegalWordAnswer : Obligations.IllegalWordAnswer := by
  refine ⟨?answer, by decide⟩
  intro w rest s hs hw
  obtain ⟨e, he⟩ := exists_decode_eq_error_iff.mpr hw
  exact step_of_illegal_word hs he

end IllegalWord

end Sys2Proof.Proofs
end

section
/-!
PROOFS. The tables and the engine. Each check of a raw table set is the constraint it stands for (R111, R118, R119, R150),
so a set is refused exactly when a constraint fails (R112); on a table that was accepted every output position of `permute`
is a source position (R110).
-/

namespace Sys2Proof.Proofs

open Sys2Proof.Machine Sys2Proof.Laws

section Checks

/-- R111: the shape of a permutation table and the range of its entries. -/
theorem permWf_iff {n m : Nat} {l : List Nat} :
    permWf n m l = true ↔ l.length = m ∧ ∀ e ∈ l, 1 ≤ e ∧ e ≤ n := by
  simp only [permWf, Bool.and_eq_true, beq_iff_eq, List.all_eq_true, decide_eq_true_eq]

/-- R150: the shape of a substitution table and the range of its values. -/
theorem sboxWf_iff {rows : List (List Nat)} :
    sboxWf rows = true ↔ rows.length = 4 ∧ ∀ row ∈ rows, row.length = 4 ∧ ∀ v ∈ row, v ≤ 3 := by
  simp only [sboxWf, Bool.and_eq_true, beq_iff_eq, List.all_eq_true, decide_eq_true_eq]

/-- `j = 1..n` of the spec is `j - 1` in `List.range n`. -/
theorem forall_mem_range_iff_forall_pos {n : Nat} {p : Nat → Prop} :
    (∀ j ∈ List.range n, p (j + 1)) ↔ ∀ j, 1 ≤ j → j ≤ n → p j := by
  constructor
  · intro h j h1 h2
    obtain ⟨i, rfl⟩ := Nat.exists_eq_add_of_le' h1
    exact h i (List.mem_range.mpr h2)
  · intro h j hj
    exact h (j + 1) (Nat.le_add_left 1 j) (List.mem_range.mp hj)

/-- R119: each source position of EP is used exactly twice. -/
theorem twiceWf_iff {ep : List Nat} : twiceWf ep = true ↔ ∀ v, 1 ≤ v → v ≤ 4 → ep.count v = 2 := by
  rw [← forall_mem_range_iff_forall_pos]
  simp only [twiceWf, List.all_eq_true, beq_iff_eq]

end Checks

section Inverse
variable (ip ipinv : PermTable 8 8)

/-- R118 as the check states it: each table undoes the other. -/
theorem inverseWf_iff_leftInvOn :
    inverseWf ip.entries ipinv.entries = true ↔
      Set.LeftInvOn (tableEntry ipinv) (tableEntry ip) (Finset.Icc 1 8) ∧
      Set.LeftInvOn (tableEntry ip) (tableEntry ipinv) (Finset.Icc 1 8) := by
  simp only [Set.LeftInvOn, Finset.coe_Icc, Set.mem_Icc, and_imp, ← forall_and, ← forall_mem_range_iff_forall_pos]
  simp only [inverseWf, tableEntry, List.all_eq_true, Bool.and_eq_true, beq_iff_eq, Nat.add_sub_cancel]

/-- On the eight positions one table undoes the other only if the other undoes it: a left inverse makes a table injective,
and so onto. -/
theorem leftInvOn_tableEntry_symm
    (h : Set.LeftInvOn (tableEntry ipinv) (tableEntry ip) (Finset.Icc 1 8)) :
    Set.LeftInvOn (tableEntry ip) (tableEntry ipinv) (Finset.Icc 1 8) := by
  have hmaps : Set.MapsTo (tableEntry ip) (Finset.Icc 1 8) (Finset.Icc 1 8) := by
    intro j hj
    obtain ⟨h1, h2⟩ := Finset.mem_Icc.mp hj
    exact Finset.mem_Icc.mpr (tableEntry_mem ip h1 h2)
  have honto : Set.SurjOn (tableEntry ip) (Finset.Icc 1 8) (Finset.Icc 1 8) :=
    Finset.surjOn_of_injOn_of_card_le _ hmaps h.injOn le_rfl
  exact honto.leftInvOn_of_rightInvOn h

theorem tableEntry_eq_getElem! {n m : Nat} (t : PermTable n m) (j : Nat) : tableEntry t j = t.entries[j - 1]! := by
  rw [List.getElem!_eq_getElem?_getD]
  rfl

/-- R118 in one direction is enough. -/
theorem inverseWf_iff :
    inverseWf ip.entries ipinv.entries = true ↔
      ∀ j, 1 ≤ j → j ≤ 8 → ipinv.entries[ip.entries[j - 1]! - 1]! = j := by
  rw [inverseWf_iff_leftInvOn, and_iff_left_of_imp (leftInvOn_tableEntry_symm ip ipinv)]
  simp only [Set.LeftInvOn, Finset.coe_Icc, Set.mem_Icc, and_imp, tableEntry_eq_getElem!]

end Inverse

section Load
variable {r : RawTbl}

theorem load_eq_none_iff : r.load = none ↔ ¬r.wf = true := by
  unfold RawTbl.load
  split
  case isTrue h => exact iff_of_false (Option.some_ne_none _) (not_not_intro h)
  case isFalse h => exact iff_of_true rfl h

theorem load_entries {T : Tbl} (h : r.load = some T) :
    T.P10.entries = r.P10 ∧ T.P8.entries = r.P8 ∧ T.IP.entries = r.IP ∧ T.IPINV.entries = r.IPINV ∧
      T.EP.entries = r.EP ∧ T.P4.entries = r.P4 ∧ T.S0.rows = r.S0 ∧ T.S1.rows = r.S1 := by
  unfold RawTbl.load at h
  split at h
  · cases h
    exact ⟨rfl, rfl, rfl, rfl, rfl, rfl, rfl, rfl⟩
  · cases h

end Load

/-- Settles O10: each constraint is one of the checks. The check of R118 asks for both directions; the statement asks for
one, which is enough because both tables have their shape. -/
theorem illFormedTablesRefused : Obligations.IllFormedTablesRefused := by
  intro r
  refine ⟨load_eq_none_iff.trans (not_congr ?checks), fun T => load_entries⟩
  simp only [← permWf_iff, ← sboxWf_iff, ← twiceWf_iff]
  simp only [RawTbl.wf, Bool.and_eq_true, and_assoc, and_congr_right_iff, and_congr_left_iff]
  intro _ _ hIP hIPINV _ _ _ _ _
  exact inverseWf_iff ⟨r.IP, hIP⟩ ⟨r.IPINV, hIPINV⟩

/-- R110: an output position holds the source bit at the table's entry. -/
theorem pos_permute {n m j : Nat} (s : Bits n) (t : PermTable n m) (h1 : 1 ≤ j) (h2 : j ≤ m) :
    pos (permute s t) j = pos s (tableEntry t j) :=
  pos_ofPos h1 h2

/-- Settles O13: the positions by `pos_permute`, the range by the table's own well-formedness; the example is evaluated. -/
theorem permuteByPositions : Obligations.PermuteByPositions := by
  refine ⟨?positions, by decide⟩
  intro n m s t j h1 h2
  obtain ⟨hlow, hhigh⟩ := tableEntry_mem t h1 h2
  exact ⟨hlow, hhigh, pos_permute s t h1 h2⟩

end Sys2Proof.Proofs
end

section
/-!
PROOFS. The key schedule by positions: what a rotation holds at a position, that a rotation is its two pieces swapped
(R131), and that each subkey is P8 of the P10 output with both halves rotated, each by itself (R130, R133).
-/

namespace Sys2Proof.Proofs

open Sys2Proof.Machine Sys2Proof.Laws

section Rotation
variable {n i : Nat} (h : Bits n) (r : Nat)

/-- R131. -/
theorem pos_rotate (h1 : 1 ≤ i) (h2 : i ≤ n) : pos (rotate h r) i = pos h ((i - 1 + r) % n + 1) := by
  rw [rotate, pos_ofPos h1 h2, Nat.add_mod_mod]

/-- Two rotations are one, by the sum (R132 (a)). -/
theorem rotate_rotate (a b : Nat) : rotate (rotate h a) b = rotate h (a + b) := by
  refine ext_pos fun i h1 h2 => ?_
  have hrange : (i - 1 + b) % n + 1 ≤ n := Nat.mod_lt _ (by omega)
  rw [pos_rotate _ b h1 h2, pos_rotate h a (Nat.le_add_left 1 _) hrange, pos_rotate h (a + b) h1 h2,
    Nat.add_sub_cancel, Nat.mod_add_mod, Nat.add_assoc, Nat.add_comm b a]

/-- A rotation by exactly one position brings the first bit to the end. -/
theorem pos_rotate_last (hn : 1 ≤ n) (hr : r % n = 1) : pos (rotate h r) n = pos h 1 := by
  rw [pos_rotate h r hn le_rfl, ← Nat.add_mod_mod, hr, Nat.sub_add_cancel hn, Nat.mod_self]

/-- Sequences that hold the same bits have the same value, also where their lengths are equal but not the same term. -/
theorem toNat_eq_of_pos {m : Nat} {a : Bits m} {b : Bits n} (hlen : m = n)
    (hpos : ∀ i, 1 ≤ i → i ≤ m → pos a i = pos b i) : a.toNat = b.toNat := by
  subst hlen
  rw [ext_pos hpos]

/-- The positions of `h(r+1..n) ++ h(1..r)`: those before `n - r` go on from `r`, the others start again at 1. -/
theorem pos_slice_append_slice (hr : r < n) (h1 : 1 ≤ i) (h2 : i ≤ n) :
    pos (slice (r + 1) (n - r) h ++ slice 1 r h : BitVec (n - r + r)) i = pos h ((i - 1 + r) % n + 1) := by
  rcases Nat.lt_or_ge (n - r) i with hi | hi
  · obtain ⟨j, rfl⟩ := Nat.exists_eq_add_of_lt hi
    have hwrap : n - r + (j + 1) - 1 + r = n + j := by omega
    rw [Nat.add_assoc, pos_append_right (Nat.le_add_left 1 j), pos_slice (Nat.le_add_left 1 j) (by omega),
      Nat.add_sub_cancel_left, hwrap, Nat.add_mod_left, Nat.mod_eq_of_lt (by omega)]
  · rw [pos_append_left h1 hi, pos_slice h1 hi, Nat.mod_eq_of_lt (by omega)]
    congr 1
    omega

theorem toNat_rotate (hn : 1 ≤ n) :
    (rotate h r).toNat = (slice (r % n + 1) (n - r % n) h ++ slice 1 (r % n) h).toNat := by
  have hr : r % n < n := Nat.mod_lt r hn
  refine toNat_eq_of_pos (by omega) fun i h1 h2 => ?_
  rw [pos_rotate h r h1 h2, pos_slice_append_slice h _ hr h1 h2, Nat.add_mod_mod]

end Rotation

/-- Settles O15: both forms hold the same bit at every position; the examples are evaluated. -/
theorem rotateByPositions : Obligations.RotateByPositions := by
  refine ⟨?positions, fun n r h => toNat_rotate h r, fun n r h => pos_rotate_last h r, by decide⟩
  intro n r h i h1 h2
  rw [pos_rotate h r h1 h2, Nat.add_mod_mod]

section Subkeys

/-- The halves of a 10-bit sequence rotated by `r`, each by itself, and put together again (R133, steps 2 to 5). -/
def rotateHalves (p : Bits 10) (r : Nat) : Bits 10 :=
  (rotate (left5 p) r ++ rotate (right5 p) r : BitVec (5 + 5))

/-- The second rotation goes on from the first, so K2 has the halves rotated by 3 (R133, R134). -/
theorem generateKeys_eq (T : Tbl) (k : Bits 10) :
    generateKeys T k =
      (permute (rotateHalves (permute k T.P10) 1) T.P8, permute (rotateHalves (permute k T.P10) 3) T.P8) := by
  simp only [generateKeys, rotateHalves, rotate_rotate]

/-- The position of a 10-bit sequence whose bit comes to position `e` when both halves are rotated by `r`. -/
def halfSource (r e : Nat) : Nat := if e ≤ 5 then (e - 1 + r) % 5 + 1 else (e - 6 + r) % 5 + 6

theorem halfSource_mem (r e : Nat) : 1 ≤ halfSource r e ∧ halfSource r e ≤ 10 := by
  unfold halfSource
  split <;> omega

/-- No bit crosses between the halves. -/
theorem pos_rotateHalves (p : Bits 10) (r : Nat) {e : Nat} (h1 : 1 ≤ e) (h2 : e ≤ 10) :
    pos (rotateHalves p r) e = pos p (halfSource r e) := by
  unfold rotateHalves halfSource
  split
  case isTrue hleft =>
    have hrange : (e - 1 + r) % 5 + 1 ≤ 5 := Nat.mod_lt _ (by decide)
    rw [pos_append_left h1 hleft, pos_rotate _ r h1 hleft, left5, pos_slice (Nat.le_add_left 1 _) hrange]
    congr 1
    omega
  case isFalse hright =>
    obtain ⟨i, rfl⟩ := Nat.exists_eq_add_of_lt (Nat.lt_of_not_le hright)
    have hrange : (i + r) % 5 + 1 ≤ 5 := Nat.mod_lt _ (by decide)
    have hoff : 5 + (i + 1) - 6 = i := by omega
    rw [Nat.add_assoc, pos_append_right (Nat.le_add_left 1 i), pos_rotate _ r (Nat.le_add_left 1 i) (by omega),
      Nat.add_sub_cancel, right5, pos_slice (Nat.le_add_left 1 _) hrange, hoff]
    congr 1
    omega

/-- A bit of a subkey, back through P8, the rotation of its half, and P10. -/
theorem pos_permute_rotateHalves (T : Tbl) (k : Bits 10) (r : Nat) {j : Nat} (h1 : 1 ≤ j) (h2 : j ≤ 8) :
    pos (permute (rotateHalves (permute k T.P10) r) T.P8) j =
      pos k (tableEntry T.P10 (halfSource r (tableEntry T.P8 j))) := by
  obtain ⟨he1, he2⟩ := tableEntry_mem T.P8 h1 h2
  obtain ⟨hs1, hs2⟩ := halfSource_mem r (tableEntry T.P8 j)
  rw [pos_permute _ _ h1 h2, pos_rotateHalves _ r he1 he2, pos_permute _ _ hs1 hs2]

/-- Settles O17: both subkeys are one function of the rotation, taken at 1 and at 3. -/
theorem subkeysByRotatedHalves : Obligations.SubkeysByRotatedHalves := by
  intro T k j h1 h2
  rw [generateKeys_eq]
  exact ⟨pos_permute_rotateHalves T k 1 h1 h2, pos_permute_rotateHalves T k 3 h1 h2⟩

end Subkeys

end Sys2Proof.Proofs
end

section
/-!
PROOFS. LOADKEY and the life of a key. LOADKEY's result does not depend on the state (R137); nothing but LOADKEY and reset
writes a register (R37); the responses depend on the registers only through `Option Instance` (R46). The rules of
re-keying (R138) follow.
-/

namespace Sys2Proof.Proofs

open Sys2Proof.Machine Sys2Proof.Laws

section Loadkey
variable {T : Tbl} {r : Regs} {k : Bits 10} {s : State}

theorem perform_loadkey :
    perform T r (.legal (.loadkey k)) = (⟨k, (generateKeys T k).1, (generateKeys T k).2, true⟩, ⟨.ok, 0#8⟩) :=
  loadKey_spec T k r

theorem exec_loadkey :
    exec (.loadkey k) s =
      .next (answer (⟨k, (generateKeys tables k).1, (generateKeys tables k).2, true⟩, ⟨.ok, 0#8⟩) s) := by
  rw [exec_eq_perform, perform_loadkey]

/-- Registers that hold a key with its subkeys are what loading that key writes. -/
theorem loadkey_regs_of_consistent (hr : Consistent T r) (hkv : r.kv = true) :
    (⟨r.key, (generateKeys T r.key).1, (generateKeys T r.key).2, true⟩ : Regs) = r := by
  rw [← hr hkv, ← hkv]

/-- Settles O30: a word with `op = 01` decodes to LOADKEY of its low ten bits. -/
theorem loadkeyWord : Obligations.LoadkeyWord := by
  intro w rest s hs hop
  have hw : decode w = .ok (.loadkey (keyField w)) := decode_eq_loadkey_iff.mpr ⟨hop, rfl⟩
  rw [step_of_command hs, decodeCommand_of_ok hw, perform_loadkey]
  rfl

end Loadkey

section KeptRegisters
variable {w : CmdWord} {s t : State}

theorem step_of_no_event (hs : s.host = []) : step s = .next (idle s) := by
  rcases step_cases s with ⟨_, hstep⟩ | ⟨_, h, _⟩ | ⟨_, _, h, _⟩
  · exact hstep
  · rw [hs] at h; cases h
  · rw [hs] at h; cases h

theorem perform_regs_of_not_loadkey (T : Tbl) (r : Regs) (hw : ∀ k, decode w ≠ .ok (.loadkey k)) :
    (perform T r (decodeCommand w)).1 = r := by
  cases hdec : decode w with
  | error e => rw [decodeCommand_of_error hdec, perform_illegal_regs]
  | ok i =>
    rw [decodeCommand_of_ok hdec]
    cases i with
    | loadkey k => exact absurd hdec (hw k)
    | encrypt b => exact perform_encrypt_regs T r b
    | decrypt b => exact perform_decrypt_regs T r b

/-- A host event that neither resets the core nor loads a key (R37). -/
def KeepsInstance (e : HostEvent) : Prop :=
  e ≠ .reset ∧ ∀ w k, e = .command w → decode w ≠ .ok (.loadkey k)

/-- A step in which the host neither resets nor loads a key keeps the registers, and the same holds of the events left. -/
theorem step_keeps_regs (hs : ∀ e ∈ s.host, KeepsInstance e) (hstep : step s = .next t) :
    t.regs = s.regs ∧ ∀ e ∈ t.host, KeepsInstance e := by
  rcases step_cases s with ⟨_, h⟩ | ⟨rest, hhost, _⟩ | ⟨w, rest, hhost, h⟩
  · cases hstep.symm.trans h
    exact ⟨rfl, hs⟩
  · rw [hhost] at hs
    exact absurd rfl (hs .reset List.mem_cons_self).1
  · rw [hhost, List.forall_mem_cons] at hs
    obtain ⟨⟨-, hw⟩, hrest⟩ := hs
    cases hstep.symm.trans h
    exact ⟨perform_regs_of_not_loadkey tables s.regs fun k => hw w k rfl, hrest⟩

/-- The same over any number of steps (R37). -/
theorem run_keeps_regs (n : Nat) (hs : ∀ e ∈ s.host, KeepsInstance e) (hrun : run n s = .next t) :
    t.regs = s.regs := by
  induction n generalizing s with
  | zero =>
    cases hrun
    rfl
  | succ n ih =>
    obtain ⟨s', hstep⟩ := exists_step_eq_next s
    rw [run_succ_of_step n hstep] at hrun
    obtain ⟨hregs, hhost⟩ := step_keeps_regs hs hstep
    exact (ih hhost hrun).trans hregs

end KeptRegisters

section View
variable (T : Tbl) (r : Regs) (c : Command)

/-- A command's response depends on the registers through `Option Instance` only (R46). -/
theorem perform_rsp_eq_performView : (perform T r c).2 = (performView T r.view c).2 := by
  obtain ⟨key, k1, k2, kv⟩ := r
  cases c with
  | illegal => rfl
  | legal i => cases i <;> cases kv <;> rfl

/-- So does the view it leaves (R46). -/
theorem perform_view_eq_performView : (perform T r c).1.view = (performView T r.view c).1 := by
  obtain ⟨key, k1, k2, kv⟩ := r
  cases c with
  | illegal => cases kv <;> rfl
  | legal i => cases i <;> cases kv <;> rfl

end View

section Unobservable
variable {s t : State}

/-- Reset leaves nothing to see, whatever free values it picks (R240). -/
theorem resetCore_view (s : State) : (resetCore s).regs.view = none := rfl

/-- The host does the same to both cores, and the registers look the same as `Option Instance` (R46). -/
structure SameView (s t : State) : Prop where
  host : s.host = t.host
  view : s.regs.view = t.regs.view

/-- Cores with the same view take steps with the same response to states with the same view. -/
theorem step_sameView (h : SameView s t) :
    ∃ s' t', step s = .next s' ∧ step t = .next t' ∧ s'.rsp = t'.rsp ∧ SameView s' t' := by
  obtain ⟨hhost, hview⟩ := h
  rcases hs : s.host with _ | ⟨_ | _, rest⟩
  case nil =>
    exact ⟨_, _, step_of_no_event hs, step_of_no_event (hhost ▸ hs), rfl, hhost, hview⟩
  case cons.reset =>
    refine ⟨_, _, step_of_reset hs, step_of_reset (hhost ▸ hs), rfl, rfl, ?_⟩
    rw [resetCore_view, resetCore_view]
  case cons.command w =>
    refine ⟨_, _, step_of_command hs, step_of_command (hhost ▸ hs), ?rsp, rfl, ?view⟩
    case rsp =>
      rw [answer_rsp, answer_rsp, perform_rsp_eq_performView, perform_rsp_eq_performView, hview]
    case view =>
      rw [answer_regs, answer_regs, perform_view_eq_performView, perform_view_eq_performView, hview]

/-- Nothing but the view and the host's events influences a response, over any number of steps. -/
theorem rspTrace_eq_of_sameView (n : Nat) (h : SameView s t) : rspTrace n s = rspTrace n t := by
  induction n generalizing s t with
  | zero => rfl
  | succ n ih =>
    obtain ⟨s', t', hs, ht, hrsp, hsame⟩ := step_sameView h
    rw [rspTrace_succ_of_step n hs, rspTrace_succ_of_step n ht, hrsp, ih hsame]

end Unobservable

section BlockCommands
variable {s : State} (b : Bits 8)

theorem exec_encrypt_of_kv (hkv : s.regs.kv = true) :
    exec (.encrypt b) s = .next (answer (s.regs, ⟨.ok, cipher tables b s.regs.k1 s.regs.k2⟩) s) := by
  rw [exec_eq_perform, perform, encryptBlock_spec, if_pos hkv]

theorem exec_decrypt_of_kv (hkv : s.regs.kv = true) :
    exec (.decrypt b) s = .next (answer (s.regs, ⟨.ok, cipher tables b s.regs.k2 s.regs.k1⟩) s) := by
  rw [exec_eq_perform, perform, decryptBlock_spec, if_pos hkv]

end BlockCommands

section Rekeying
variable (k : Bits 10)

/-- R138 (a), (c): the key that was loaded before shows in nothing after LOADKEY. -/
theorem loadkey_forgets (s s' : State) :
    ∃ t t', exec (.loadkey k) s = .next t ∧ exec (.loadkey k) s' = .next t' ∧
      t.regs = t'.regs ∧ t.rsp = some ⟨.ok, 0x00#8⟩ ∧ t'.rsp = some ⟨.ok, 0x00#8⟩ ∧
      (s.host = s'.host → ∀ n, rspTrace n t = rspTrace n t') :=
  ⟨_, _, exec_loadkey, exec_loadkey, rfl, rfl, rfl, fun hhost n => rspTrace_eq_of_sameView n ⟨hhost, rfl⟩⟩

/-- R138 (a): until the next LOADKEY or reset, the block commands use the subkeys of the key loaded. -/
theorem block_commands_after_loadkey (n : Nat) (b : Bits 8) {s t u : State} (hs : ∀ e ∈ s.host, KeepsInstance e)
    (hload : exec (.loadkey k) s = .next t) (hrun : run n t = .next u) :
    ∃ v w, exec (.encrypt b) u = .next v ∧ exec (.decrypt b) u = .next w ∧
      v.rsp = some ⟨.ok, cipher tables b (generateKeys tables k).1 (generateKeys tables k).2⟩ ∧
      w.rsp = some ⟨.ok, cipher tables b (generateKeys tables k).2 (generateKeys tables k).1⟩ := by
  cases exec_loadkey.symm.trans hload
  have hregs : u.regs = ⟨k, (generateKeys tables k).1, (generateKeys tables k).2, true⟩ :=
    run_keeps_regs (s := answer _ s) n hs hrun
  have hkv : u.regs.kv = true := by rw [hregs]
  refine ⟨_, _, exec_encrypt_of_kv b hkv, exec_decrypt_of_kv b hkv, ?_, ?_⟩ <;> rw [answer_rsp, hregs]

end Rekeying

/-- Settles O37. (a) and (c): LOADKEY's result is the same from every state, and the later responses depend on nothing
else; (b): the invariant says the subkeys are there already; (d): LOADKEY is the only word that writes a register. -/
theorem rekeyingRules : Obligations.RekeyingRules := by
  refine ⟨loadkey_forgets, fun k n b s t u => block_commands_after_loadkey k n b, ?reload, ?other⟩
  case reload =>
    intro s hinv hkv
    rw [exec_loadkey, loadkey_regs_of_consistent hinv.consistent hkv]
    rfl
  case other =>
    intro w rest s t hs hop hstep
    have hw : ∀ k, decode w ≠ .ok (.loadkey k) := fun k h => hop (decode_eq_loadkey_iff.mp h).1
    rw [regs_of_command_step hstep hs, perform_regs_of_not_loadkey tables s.regs hw]

end Sys2Proof.Proofs
end

section
/-!
PROOFS. The two-round datapath. Cut into halves after IP, a block passes two Feistel rounds (R180 to R184), for any round
function and any table set; the same datapath with the subkeys exchanged takes the two rounds back (R191, R192).
-/

namespace Sys2Proof.Proofs

open Sys2Proof.Machine Sys2Proof.Laws

section Halves

@[simp] theorem left4_append (a b : Bits 4) : left4 (a ++ b : BitVec (4 + 4)) = a := by
  refine ext_pos fun i h1 h2 => ?_
  rw [left4, pos_slice h1 h2, Nat.add_sub_cancel_left, pos_append_left h1 h2]

@[simp] theorem right4_append (a b : Bits 4) : right4 (a ++ b : BitVec (4 + 4)) = b := by
  refine ext_pos fun i h1 h2 => ?_
  have hidx : 5 + i - 1 = 4 + i := by omega
  rw [right4, pos_slice h1 h2, hidx, pos_append_right h1]

theorem left4_append_right4 (p : Bits 8) : (left4 p ++ right4 p : BitVec (4 + 4)) = p := by
  refine ext_pos fun i h1 h2 => ?_
  rcases Nat.lt_or_ge 4 i with hi | hi
  · obtain ⟨j, rfl⟩ := Nat.exists_eq_add_of_lt hi
    have hidx : 5 + (j + 1) - 1 = 4 + (j + 1) := by omega
    rw [Nat.add_assoc, pos_append_right (Nat.le_add_left 1 j), right4, pos_slice (Nat.le_add_left 1 j) (by omega), hidx]
  · rw [pos_append_left h1 hi, left4, pos_slice h1 hi, Nat.add_sub_cancel_left]

end Halves

section Permutations
variable (T : Tbl) (p : Bits 8)

/-- R118. -/
theorem permute_IPINV_IP : permute (permute p T.IPINV) T.IP = p := by
  refine ext_pos fun i h1 h2 => ?_
  obtain ⟨hlow, hhigh⟩ := tableEntry_mem T.IP h1 h2
  obtain ⟨hinv, -⟩ := tableEntry_inverse T h1 h2
  rw [pos_permute _ _ h1 h2, pos_permute _ _ hlow hhigh, hinv]

/-- R118. -/
theorem permute_IP_IPINV : permute (permute p T.IP) T.IPINV = p := by
  refine ext_pos fun i h1 h2 => ?_
  obtain ⟨hlow, hhigh⟩ := tableEntry_mem T.IPINV h1 h2
  obtain ⟨-, hinv⟩ := tableEntry_inverse T h1 h2
  rw [pos_permute _ _ h1 h2, pos_permute _ _ hlow hhigh, hinv]

end Permutations

section Rounds
variable {T : Tbl} {l r : Bits 4} {block : Bits 8} (ka kb : Bits 8)

/-- R180 to R184: a swap after round 1, none after round 2. -/
theorem permute_cipher (h : permute block T.IP = (l ++ r : BitVec (4 + 4))) :
    permute (cipher T block ka kb) T.IP =
      ((r ^^^ feistel T (l ^^^ feistel T r ka) kb) ++ (l ^^^ feistel T r ka) : BitVec (4 + 4)) := by
  simp only [cipher, h, left4_append, right4_append, permute_IPINV_IP]

/-- R191: with the subkeys exchanged, each round adds again the value that a round of the first pass added, and the two
cancel. -/
theorem cipher_cipher (T : Tbl) (block : Bits 8) : cipher T (cipher T block ka kb) kb ka = block := by
  have hsplit := (left4_append_right4 (permute block T.IP)).symm
  have hback : permute (cipher T (cipher T block ka kb) kb ka) T.IP = permute block T.IP := by
    rw [permute_cipher kb ka (permute_cipher ka kb hsplit)]
    simp only [BitVec.xor_assoc, BitVec.xor_self, BitVec.xor_zero, left4_append_right4]
  rw [← permute_IP_IPINV T (cipher T (cipher T block ka kb) kb ka), hback, permute_IP_IPINV]

end Rounds

end Sys2Proof.Proofs
end

section
/-!
PROOFS. The block commands. ENCRYPT and DECRYPT keep the registers and answer by KV (R189, R190), and a pad other than 00
is found before KV is looked at (R217). Over a run without LOADKEY or reset the registers stay, so DECRYPT undoes
ENCRYPT (R191).
-/

namespace Sys2Proof.Proofs

open Sys2Proof.Machine Sys2Proof.Laws

/-- Settles O27: ENCRYPT with a key loaded, `exec_encrypt_of_kv`. -/
theorem encryptCompletes : Obligations.EncryptCompletes := by
  intro b s hkv
  exact exec_encrypt_of_kv b hkv

/-- Settles O28: DECRYPT with a key loaded, `exec_decrypt_of_kv`. -/
theorem decryptCompletes : Obligations.DecryptCompletes := by
  intro b s hkv
  exact exec_decrypt_of_kv b hkv

section BlockWords
variable (T : Tbl) (r : Regs) (b : Bits 8)

theorem perform_encrypt :
    perform T r (.legal (.encrypt b)) =
      (r, if r.kv = false then ⟨.keyNotLoaded, 0#8⟩ else ⟨.ok, cipher T b r.k1 r.k2⟩) := by
  rw [perform, encryptBlock_spec]
  cases r.kv <;> rfl

theorem perform_decrypt :
    perform T r (.legal (.decrypt b)) =
      (r, if r.kv = false then ⟨.keyNotLoaded, 0#8⟩ else ⟨.ok, cipher T b r.k2 r.k1⟩) := by
  rw [perform, decryptBlock_spec]
  cases r.kv <;> rfl

/-- A word of format B: InvalidInput for the pad, else the response of the command `i` it then decodes to (R92, R217). -/
theorem step_of_block_word {w : CmdWord} {rest : List HostEvent} {s : State} {i : Instr} {rsp : Response}
    (hs : s.host = .command w :: rest) (hop : opField w = 0b10#2 ∨ opField w = 0b11#2)
    (hlegal : padField w = 0b00#2 → decode w = .ok i) (hi : perform tables s.regs (.legal i) = (s.regs, rsp)) :
    step s = .next
      { s with rsp := some (if padField w ≠ 0b00#2 then ⟨.invalidInput, 0#8⟩ else rsp), host := rest } := by
  split
  case isTrue hpad =>
    obtain ⟨e, hw⟩ := exists_decode_eq_error_iff.mpr (.inr ⟨hop, hpad⟩)
    exact step_of_illegal_word hs hw
  case isFalse hpad =>
    rw [step_of_command hs, decodeCommand_of_ok (hlegal (not_not.mp hpad)), hi]
    rfl

end BlockWords

/-- Settles O31: a word of format B with `op = 10` decodes to ENCRYPT of its block. -/
theorem encryptWord : Obligations.EncryptWord := by
  intro w rest s hs hop
  exact step_of_block_word hs (.inl hop) (fun hpad => decode_eq_encrypt_iff.mpr ⟨hop, hpad, rfl⟩)
    (perform_encrypt tables s.regs (blkField w))

/-- Settles O32: a word of format B with `op = 11` decodes to DECRYPT of its block. -/
theorem decryptWord : Obligations.DecryptWord := by
  intro w rest s hs hop
  exact step_of_block_word hs (.inr hop) (fun hpad => decode_eq_decrypt_iff.mpr ⟨hop, hpad, rfl⟩)
    (perform_decrypt tables s.regs (blkField w))

section EncodedWords

/-- The fields of a word put together in format B (R83). -/
theorem fields_of_append (op pad : Bits 2) (b : Bits 8) :
    opField (op ++ pad ++ b : BitVec (2 + 2 + 8)) = op ∧ padField (op ++ pad ++ b : BitVec (2 + 2 + 8)) = pad ∧
      blkField (op ++ pad ++ b : BitVec (2 + 2 + 8)) = b :=
  ⟨(BitVec.extractLsb'_append_eq_of_le (by decide)).trans BitVec.extractLsb'_append_eq_left,
    (BitVec.extractLsb'_append_eq_of_le (by decide)).trans BitVec.extractLsb'_append_eq_right,
    BitVec.extractLsb'_append_eq_right⟩

/-- R90, R93: no operand is lost on the way. -/
theorem decode_encode (i : Instr) : decode (encode i) = .ok i := by
  cases i with
  | loadkey k =>
    exact decode_eq_loadkey_iff.mpr ⟨BitVec.extractLsb'_append_eq_left, BitVec.extractLsb'_append_eq_right⟩
  | encrypt b => exact decode_eq_encrypt_iff.mpr (fields_of_append 0b10#2 0b00#2 b)
  | decrypt b => exact decode_eq_decrypt_iff.mpr (fields_of_append 0b11#2 0b00#2 b)

/-- An encoded command that is the host's next event is performed. -/
theorem step_of_encoded {i : Instr} {rest : List HostEvent} {s : State} (hs : s.host = .command (encode i) :: rest) :
    step s = exec i { s with host := rest } := by
  rw [step_of_command hs, decodeCommand_of_ok (decode_encode i), exec_eq_perform]

/-- ENCRYPT neither loads a key nor resets (R37). -/
theorem keepsInstance_encrypt (b : Bits 8) : KeepsInstance (.command (encode (.encrypt b))) := by
  refine ⟨nofun, ?_⟩
  rintro w k ⟨⟩ hw
  cases (decode_encode _).symm.trans hw

end EncodedWords

section Runs
variable {s t u : State}

/-- One event of the host is used up by a step (R248). -/
theorem step_host (hstep : step s = .next t) : t.host = s.host.tail := by
  rcases step_cases s with ⟨hs, h⟩ | ⟨rest, hs, h⟩ | ⟨w, rest, hs, h⟩ <;> cases hstep.symm.trans h <;> simp [hs]

theorem run_host (n : Nat) (hrun : run n s = .next t) : t.host = s.host.drop n := by
  induction n generalizing s with
  | zero =>
    cases hrun
    rfl
  | succ n ih =>
    obtain ⟨s', hstep⟩ := exists_step_eq_next s
    rw [run_succ_of_step n hstep] at hrun
    rw [ih hrun, step_host hstep, List.drop_tail]

theorem exists_run_eq_next (n : Nat) (s : State) : ∃ t, run n s = .next t := by
  induction n generalizing s with
  | zero => exact ⟨s, run_zero s⟩
  | succ n ih =>
    obtain ⟨s', hstep⟩ := exists_step_eq_next s
    rw [run_succ_of_step n hstep]
    exact ih s'

/-- A run may be lengthened by a step at its end. -/
theorem run_succ_of_run (n : Nat) (hrun : run n s = .next t) (hstep : step t = .next u) : run (n + 1) s = .next u := by
  induction n generalizing s with
  | zero =>
    cases hrun
    exact run_succ_of_step 0 hstep
  | succ n ih =>
    obtain ⟨s', hs⟩ := exists_step_eq_next s
    rw [run_succ_of_step n hs] at hrun
    rw [run_succ_of_step (n + 1) hs, ih hrun]

end Runs

section RoundTrip
variable {s : State} {rest : List HostEvent}

/-- A LOADKEY the host presents completes (R137). -/
theorem step_of_encoded_loadkey {k : Bits 10} (hs : s.host = .command (encode (.loadkey k)) :: rest) :
    ∃ t, step s = .next t ∧ t.rsp = some ⟨.ok, 0x00#8⟩ ∧ t.host = rest ∧ t.regs.kv = true :=
  ⟨_, (step_of_encoded hs).trans exec_loadkey, rfl, rfl, rfl⟩

/-- An ENCRYPT the host presents to a core that holds a key completes (R189). -/
theorem step_of_encoded_encrypt {b : Bits 8} (hs : s.host = .command (encode (.encrypt b)) :: rest)
    (hkv : s.regs.kv = true) :
    ∃ t, step s = .next t ∧ t.rsp = some ⟨.ok, cipher tables b s.regs.k1 s.regs.k2⟩ ∧ t.host = rest ∧
      t.regs = s.regs :=
  ⟨_, (step_of_encoded hs).trans (exec_encrypt_of_kv b hkv), rfl, rfl, rfl⟩

/-- R191 for a core that holds a key: ENCRYPT P comes after `n` events, DECRYPT after `m` more. -/
theorem decrypt_after_encrypt (n m : Nat) {P : Bits 8} (hkeep : ∀ e ∈ s.host, KeepsInstance e)
    (hkv : s.regs.kv = true) (henc : s.host.drop n = .command (encode (.encrypt P)) :: rest) :
    ∃ C t u v, run (n + 1) s = .next t ∧ t.rsp = some ⟨.ok, C⟩ ∧
      run m t = .next u ∧ exec (.decrypt C) u = .next v ∧ v.rsp = some ⟨.ok, P⟩ := by
  obtain ⟨p, hp⟩ := exists_run_eq_next n s
  have hpregs : p.regs = s.regs := run_keeps_regs n hkeep hp
  obtain ⟨t, hstep, hC, hthost, htregs⟩ := step_of_encoded_encrypt ((run_host n hp).trans henc) (hpregs ▸ hkv)
  obtain ⟨u, hu⟩ := exists_run_eq_next m t
  have htkeep : ∀ e ∈ t.host, KeepsInstance e := fun e he =>
    hkeep e (List.mem_of_mem_drop (henc ▸ List.mem_cons_of_mem _ (hthost ▸ he)))
  have huregs : u.regs = p.regs := (run_keeps_regs m htkeep hu).trans htregs
  have hukv : u.regs.kv = true := by rw [huregs, hpregs, hkv]
  refine ⟨_, t, u, _, run_succ_of_run n hp hstep, hC, hu, exec_decrypt_of_kv _ hukv, ?_⟩
  rw [answer_rsp, huregs, cipher_cipher]

end RoundTrip

/-- Settles O54: LOADKEY leaves a key loaded, and no event after it, ENCRYPT P included, takes it away. -/
theorem commandsRoundTrip : Obligations.CommandsRoundTrip := by
  intro k P before between s hkeep hs
  obtain ⟨t, hload, hrsp, hhost, hkv⟩ := step_of_encoded_loadkey hs
  have henc : t.host.drop before.length = .command (encode (.encrypt P)) :: between := by
    rw [hhost, List.drop_left]
  have hkeeps : ∀ e ∈ t.host, KeepsInstance e := by
    obtain ⟨hbefore, hbetween⟩ := List.forall_mem_append.mp hkeep
    rw [hhost, List.forall_mem_append, List.forall_mem_cons]
    exact ⟨hbefore, keepsInstance_encrypt P, hbetween⟩
  refine ⟨by rw [rspTrace_succ_of_step 0 hload, hrsp, rspTrace], ?_⟩
  rw [run_succ_of_step (before.length + 1) hload]
  exact decrypt_after_encrypt before.length between.length hkeeps hkv henc

end Sys2Proof.Proofs
end

section
/-!
PROOFS. The errors. A command whose response is not OK is one that raised an error (R18, R216), so it left the registers
alone; and a step does not read the response before it, so nothing of the error lasts (R216, R221).
-/

namespace Sys2Proof.Proofs

open Sys2Proof.Machine Sys2Proof.Laws

section RaisedErrors
variable {T : Tbl} {r : Regs}

theorem perform_encrypt_of_not_kv (b : Bits 8) (hkv : r.kv = false) :
    perform T r (.legal (.encrypt b)) = raiseError .keyNotLoaded r := by
  rw [perform_encrypt, if_pos hkv, raiseError_spec, CmdError.status]

theorem perform_decrypt_of_not_kv (b : Bits 8) (hkv : r.kv = false) :
    perform T r (.legal (.decrypt b)) = raiseError .keyNotLoaded r := by
  rw [perform_decrypt, if_pos hkv, raiseError_spec, CmdError.status]

/-- The converse of R18: no command has a response other than OK in any other way. -/
theorem exists_perform_eq_raiseError {c : Command} (hst : (perform T r c).2.st ≠ .ok) :
    ∃ e, perform T r c = raiseError e r := by
  cases c with
  | illegal => exact ⟨.invalidInput, rfl⟩
  | legal i =>
    cases i with
    | loadkey k => exact absurd (by rw [perform_loadkey]) hst
    | encrypt b =>
      cases hkv : r.kv with
      | false => exact ⟨.keyNotLoaded, perform_encrypt_of_not_kv b hkv⟩
      | true => exact absurd (by simp [perform_encrypt, hkv]) hst
    | decrypt b =>
      cases hkv : r.kv with
      | false => exact ⟨.keyNotLoaded, perform_decrypt_of_not_kv b hkv⟩
      | true => exact absurd (by simp [perform_decrypt, hkv]) hst

/-- An error is answered, and everything else stays. -/
theorem answer_raiseError (e : CmdError) (s : State) :
    answer (raiseError e s.regs) s = { s with rsp := some ⟨e.status, 0#8⟩ } := rfl

end RaisedErrors

/-- Settles O29: with KV = 0 both block commands raise `KeyNotLoaded`. -/
theorem keyNotLoadedAnswer : Obligations.KeyNotLoadedAnswer := by
  intro b s hkv
  rw [exec_eq_perform, exec_eq_perform, perform_encrypt_of_not_kv b hkv, perform_decrypt_of_not_kv b hkv,
    answer_raiseError, CmdError.status]
  exact ⟨rfl, rfl⟩

section NotSticky
variable {s t : State} {w : CmdWord} {rest : List HostEvent} {r : Response}

/-- The response of the step before influences nothing: each event overwrites it. -/
theorem step_with_rsp (s : State) (o : Option Response) : step { s with rsp := o } = step s := by
  rcases step_cases s with ⟨hs, hstep⟩ | ⟨rest, hs, hstep⟩ | ⟨w, rest, hs, hstep⟩ <;> rw [hstep]
  · exact step_of_no_event hs
  · exact step_of_reset hs
  · exact step_of_command hs

/-- After a command that failed, the state is the one before with that command taken off, but for the response (R216). -/
theorem eq_of_failed_step (hs : s.host = .command w :: rest) (hstep : step s = .next t) (hr : t.rsp = some r)
    (hst : r.st ≠ .ok) : ∃ e : CmdError, r = ⟨e.status, 0#8⟩ ∧ t = { s with host := rest, rsp := some r } := by
  cases (step_of_command hs).symm.trans hstep
  cases hr
  obtain ⟨e, he⟩ := exists_perform_eq_raiseError hst
  rw [he]
  exact ⟨e, rfl, rfl⟩

end NotSticky

/-- Settles O48: the step that failed left only its response behind, and the next step does not read it. -/
theorem errorsChangeNothing : Obligations.ErrorsChangeNothing := by
  intro w w' rest s t r hs hstep hr hst
  obtain ⟨e, rfl, rfl⟩ := eq_of_failed_step hs hstep hr hst
  exact ⟨rfl, rfl, step_with_rsp { s with host := .command w' :: rest } _⟩

end Sys2Proof.Proofs
end

section
/-!
PROOFS. Reset. A reset step is `resetCore` on the state with the event taken off, so what it leaves is read off the laws
of `resetCore`, which ask nothing of the state before (R240).
-/

namespace Sys2Proof.Proofs

open Sys2Proof.Machine Sys2Proof.Laws

/-- Settles O41: the laws of `resetCore`, one per part of the statement, none with a hypothesis on the state. -/
theorem resetEvent : Obligations.ResetEvent := by
  intro rest s hs
  exact ⟨_, step_of_reset hs, resetCore_kv _, resetCore_view _, resetCore_rsp _, resetCore_host _⟩

end Sys2Proof.Proofs
end

section
/-!
PROOFS. What every run keeps. The invariant of the core survives each step (R36, R86, R213); the responses are those of
the commands over `Option Instance` (R46), so what that form does not show no run shows.
-/

namespace Sys2Proof.Proofs

open Sys2Proof.Machine Sys2Proof.Laws

section Invariant
variable {T : Tbl} {r : Regs} {c : Command} {s t : State}

/-- LOADKEY writes a key with its own subkeys; no other command writes a register (R36). -/
theorem perform_consistent (hr : Consistent T r) : Consistent T (perform T r c).1 := by
  cases c with
  | illegal => rwa [perform_illegal_regs]
  | legal i =>
    cases i with
    | loadkey k =>
      rw [perform_loadkey_regs]
      exact fun _ => rfl
    | encrypt b => rwa [perform_encrypt_regs]
    | decrypt b => rwa [perform_decrypt_regs]

/-- A response other than OK is that of a raised error (R216). -/
theorem perform_quiet : (perform T r c).2.Quiet := by
  intro hst
  obtain ⟨e, he⟩ := exists_perform_eq_raiseError hst
  rw [he, raiseError_spec]

/-- With a key loaded no command answers `KeyNotLoaded` (R213). -/
theorem perform_st_ne_keyNotLoaded (hkv : r.kv = true) : (perform T r c).2.st ≠ .keyNotLoaded := by
  cases c with
  | illegal => exact nofun
  | legal i =>
    cases i with
    | loadkey k => simp [perform_loadkey]
    | encrypt b => simp [perform_encrypt, hkv]
    | decrypt b => simp [perform_decrypt, hkv]

/-- A command that answers `KeyNotLoaded` found KV = 0 and left it so. -/
theorem perform_kv_of_keyNotLoaded (hst : (perform T r c).2.st = .keyNotLoaded) : (perform T r c).1.kv = false := by
  have hkv : r.kv = false := Bool.eq_false_iff.mpr fun h => perform_st_ne_keyNotLoaded h hst
  obtain ⟨e, he⟩ := exists_perform_eq_raiseError (T := T) (r := r) (c := c) (by simp [hst])
  rwa [he, raiseError_spec]

/-- Registers that are consistent, and no response: what an idle step and a reset leave. -/
theorem coreInv_of_rsp_none (hregs : Consistent tables s.regs) (hrsp : s.rsp = none) : CoreInv s where
  consistent := hregs
  quiet r hr := by cases hrsp.symm.trans hr
  noKey r hr := by cases hrsp.symm.trans hr

theorem consistent_of_kv_false (hkv : r.kv = false) : Consistent T r := fun h => by cases hkv.symm.trans h

/-- A command answered by consistent registers leaves the invariant, whatever response stood before. -/
theorem coreInv_answer (hregs : Consistent tables r) : CoreInv (answer (perform tables r c) s) where
  consistent := perform_consistent hregs
  quiet := by
    rintro _ ⟨⟩
    exact perform_quiet
  noKey := by
    rintro _ ⟨⟩
    exact perform_kv_of_keyNotLoaded

/-- Settles O49, by the event the step takes. -/
theorem stepKeepsInvariant : Obligations.StepKeepsInvariant := by
  intro s t hs hstep
  rcases step_cases s with ⟨_, h⟩ | ⟨_, _, h⟩ | ⟨w, _, _, h⟩ <;> cases hstep.symm.trans h
  case inl => exact coreInv_of_rsp_none hs.consistent (idle_rsp s)
  case inr.inl => exact coreInv_of_rsp_none (consistent_of_kv_false (resetCore_kv _)) (resetCore_rsp _)
  case inr.inr => exact coreInv_answer hs.consistent

theorem coreInv_reset (events : List HostEvent) : CoreInv { State.reset with host := events } :=
  coreInv_of_rsp_none (consistent_of_kv_false rfl) rfl

/-- Settles O50: KV = 0 and no response after reset. -/
theorem resetMeetsInvariant : Obligations.ResetMeetsInvariant := coreInv_reset []

/-- What every step keeps, every run keeps. -/
theorem run_keeps {p : State → Prop} (hkeep : ∀ s t, p s → step s = .next t → p t) (n : Nat) (hs : p s)
    (hrun : run n s = .next t) : p t := by
  induction n generalizing s with
  | zero =>
    cases hrun
    exact hs
  | succ n ih =>
    obtain ⟨s', hstep⟩ := exists_step_eq_next s
    rw [run_succ_of_step n hstep] at hrun
    exact ih (hkeep s s' hs hstep) hrun

/-- Settles O51: the invariant holds at reset and every step keeps it. -/
theorem reachableSubkeysMatchKey : Obligations.ReachableSubkeysMatchKey := by
  intro events n s hrun
  have hinv : CoreInv s := run_keeps stepKeepsInvariant n (coreInv_reset events) hrun
  exact hinv.consistent

end Invariant

section ViewEvents
variable (T : Tbl) (o : Option Instance) (es es' : List HostEvent)

theorem viewAfter_append : viewAfter T o (es ++ es') = viewAfter T (viewAfter T o es) es' := by
  induction es generalizing o with
  | nil => rfl
  | cons e es ih => cases e <;> exact ih _

theorem viewTrace_append : viewTrace T o (es ++ es') = viewTrace T o es ++ viewTrace T (viewAfter T o es) es' := by
  induction es generalizing o with
  | nil => rfl
  | cons e es ih => cases e <;> exact congrArg _ (ih _)

variable (e : HostEvent)

theorem viewAfter_cons : viewAfter T o (e :: es) = viewAfter T (viewAfter T o [e]) es := viewAfter_append T o [e] es

theorem viewTrace_cons : viewTrace T o (e :: es) = viewTrace T o [e] ++ viewTrace T (viewAfter T o [e]) es :=
  viewTrace_append T o [e] es

end ViewEvents

section Refinement
variable {s : State}

/-- The commuting square of the refinement: a step on the registers shows the response and leaves the view that its
event has over `Option Instance` (R46). -/
theorem step_refines {e : HostEvent} {rest : List HostEvent} (hs : s.host = e :: rest) :
    ∃ t, step s = .next t ∧ t.host = rest ∧ viewTrace tables s.regs.view [e] = [t.rsp] ∧
      t.regs.view = viewAfter tables s.regs.view [e] := by
  cases e with
  | reset => exact ⟨_, step_of_reset hs, rfl, rfl, rfl⟩
  | command w =>
    refine ⟨_, step_of_command hs, rfl, ?rsp, ?view⟩
    case rsp => rw [answer_rsp, perform_rsp_eq_performView, viewTrace, viewTrace]
    case view => rw [answer_regs, perform_view_eq_performView, viewAfter, viewAfter]

/-- The square, once for each of the host's events. -/
theorem run_refines {es : List HostEvent} (hs : s.host = es) :
    rspTrace es.length s = viewTrace tables s.regs.view es ∧
      ∃ t, run es.length s = .next t ∧ t.regs.view = viewAfter tables s.regs.view es := by
  induction es generalizing s with
  | nil => exact ⟨rfl, s, rfl, rfl⟩
  | cons e es ih =>
    obtain ⟨t, hstep, hhost, hrsp, hview⟩ := step_refines hs
    rw [List.length_cons, rspTrace_succ_of_step _ hstep, run_succ_of_step _ hstep, viewAfter_cons,
      viewTrace_cons, hrsp, ← hview]
    obtain ⟨htrace, hrun⟩ := ih hhost
    exact ⟨congrArg _ htrace, hrun⟩

/-- Settles O52, by induction on the host's events. -/
theorem registersRefineInstance : Obligations.RegistersRefineInstance := fun _ => run_refines rfl

end Refinement

section Unread
variable {T : Tbl} {r r' : Regs} {s t : State}

/-- Both register files hold the same key valid flag, and the same subkeys where it is set: nothing is asked of KEY, nor of
the subkeys while KV = 0 (R31, R45). -/
structure SameSubkeys (r r' : Regs) : Prop where
  kv : r.kv = r'.kv
  k1 : r.kv = true → r.k1 = r'.k1
  k2 : r.kv = true → r.k2 = r'.k2

theorem SameSubkeys.refl (r : Regs) : SameSubkeys r r := ⟨rfl, fun _ => rfl, fun _ => rfl⟩

/-- No command reads KEY, and the block commands read the subkeys only where KV = 1 (R31, R213). -/
theorem perform_rsp_eq_of_sameSubkeys (h : SameSubkeys r r') (c : Command) :
    (perform T r c).2 = (perform T r' c).2 := by
  obtain ⟨hkv, hk1, hk2⟩ := h
  cases c with
  | illegal => rfl
  | legal i =>
    cases i with
    | loadkey k => rfl
    | encrypt b =>
      cases hr : r.kv with
      | false => simp [perform_encrypt, ← hkv, hr]
      | true => simp [perform_encrypt, ← hkv, hr, hk1 hr, hk2 hr]
    | decrypt b =>
      cases hr : r.kv with
      | false => simp [perform_decrypt, ← hkv, hr]
      | true => simp [perform_decrypt, ← hkv, hr, hk1 hr, hk2 hr]

/-- LOADKEY overwrites the difference (R241); the other commands keep the registers. -/
theorem perform_sameSubkeys (h : SameSubkeys r r') (c : Command) :
    SameSubkeys (perform T r c).1 (perform T r' c).1 := by
  cases c with
  | illegal => simpa only [perform_illegal_regs] using h
  | legal i =>
    cases i with
    | loadkey k => simpa only [perform_loadkey_regs] using SameSubkeys.refl _
    | encrypt b => simpa only [perform_encrypt_regs] using h
    | decrypt b => simpa only [perform_decrypt_regs] using h

theorem resetCore_sameSubkeys (s t : State) : SameSubkeys (resetCore s).regs (resetCore t).regs := ⟨rfl, nofun, nofun⟩

/-- Cores the host cannot tell apart answer the same and stay so. -/
theorem step_sameSubkeys (hhost : s.host = t.host) (hregs : SameSubkeys s.regs t.regs) :
    ∃ s' t', step s = .next s' ∧ step t = .next t' ∧ s'.rsp = t'.rsp ∧ s'.host = t'.host ∧
      SameSubkeys s'.regs t'.regs := by
  rcases hs : s.host with _ | ⟨_ | _, rest⟩
  case nil =>
    exact ⟨_, _, step_of_no_event hs, step_of_no_event (hhost ▸ hs), rfl, hhost, hregs⟩
  case cons.reset =>
    exact ⟨_, _, step_of_reset hs, step_of_reset (hhost ▸ hs), rfl, rfl, resetCore_sameSubkeys _ _⟩
  case cons.command w =>
    exact ⟨_, _, step_of_command hs, step_of_command (hhost ▸ hs),
      congrArg some (perform_rsp_eq_of_sameSubkeys hregs _), rfl, perform_sameSubkeys hregs _⟩

theorem rspTrace_eq_of_sameSubkeys (n : Nat) (hhost : s.host = t.host) (hregs : SameSubkeys s.regs t.regs) :
    rspTrace n s = rspTrace n t := by
  induction n generalizing s t with
  | zero => rfl
  | succ n ih =>
    obtain ⟨s', t', hs, ht, hrsp, hhost', hregs'⟩ := step_sameSubkeys hhost hregs
    rw [rspTrace_succ_of_step n hs, rspTrace_succ_of_step n ht, hrsp, ih hhost' hregs']

/-- Settles O53: the relation asks of the registers just what a response depends on, and every step keeps it. -/
theorem unreadRegistersUnobservable : Obligations.UnreadRegistersUnobservable := by
  intro n s t h
  exact rspTrace_eq_of_sameSubkeys n h.host ⟨h.kv, h.k1, h.k2⟩

end Unread

end Sys2Proof.Proofs
end

section
/-!
PROOFS. The port. What the core does in a cycle and what is in flight after it are said once for each kind of cycle; the
responses, their order and their latency follow (R242, R248, R252 to R255).
-/

namespace Sys2Proof.Proofs

open Sys2Proof.Machine Sys2Proof.Laws

section CoreInCycle
variable (s : State)

theorem stepWith_of_step {e : Option HostEvent} {t : State} (h : step { s with host := e.toList } = .next t) :
    stepWith e s = t := by
  simp only [stepWith, h]

theorem stepWith_none : stepWith none s = idle { s with host := [] } := rfl

theorem stepWith_reset : stepWith (some .reset) s = resetCore { s with host := [] } := rfl

theorem stepWith_command (w : CmdWord) :
    stepWith (some (.command w)) s = answer (perform tables s.regs (decodeCommand w)) { s with host := [] } :=
  stepWith_of_step s (step_of_command rfl)

/-- The commuting square of the port: a cycle leaves the view that its event has over `Option Instance`. -/
theorem stepWith_view (e : Option HostEvent) :
    (stepWith e s).regs.view = viewAfter tables s.regs.view e.toList := by
  cases e with
  | none => rfl
  | some e =>
    obtain ⟨t, hstep, -, -, hview⟩ := step_refines (s := { s with host := [e] }) rfl
    rw [stepWith_of_step s (e := some e) hstep, hview, Option.toList_some]

/-- A cycle shows the response its event has over `Option Instance`, if it has one. -/
theorem stepWith_rsp (e : Option HostEvent) :
    (viewTrace tables s.regs.view e.toList).filter Option.isSome = (stepWith e s).rsp.toList.map some := by
  cases e with
  | none => rfl
  | some e =>
    obtain ⟨t, hstep, -, hrsp, -⟩ := step_refines (s := { s with host := [e] }) rfl
    rw [stepWith_of_step s (e := some e) hstep, Option.toList_some, hrsp]
    cases t.rsp <;> rfl

end CoreInCycle

section Refinement
variable (c : PortConfig) (p : PortState) (i : Pins)

theorem clock_core : (clock c p i).1.core = stepWith (cycleEvent c p i) p.core := rfl

theorem clock_flight : (clock c p i).1.flight = flightAfter c p i := rfl

theorem clock_rsp : (clock c p i).2.rsp = (stepWith (cycleEvent c p i) p.core).rsp.map Response.word := rfl

theorem clock_ready : (clock c p i).2.ready = portReady c p i := rfl

/-- The response words of a first cycle and of those after it. -/
theorem filterMap_rsp_portOuts_cons (is : List Pins) :
    (portOuts c p (i :: is)).filterMap PortOut.rsp =
      (clock c p i).2.rsp.toList ++ (portOuts c (clock c p i).1 is).filterMap PortOut.rsp := by
  rw [portOuts, List.filterMap_cons]
  cases (clock c p i).2.rsp <;> rfl

/-- Settles O59, by induction on the cycles: each performs its event as the machine over `Option Instance` does. -/
theorem portRefinesCommands : Obligations.PortRefinesCommands := by
  intro c p pins
  induction pins generalizing p with
  | nil => exact ⟨rfl, rfl⟩
  | cons i is ih =>
    obtain ⟨hrsp, hview⟩ := ih (clock c p i).1
    rw [clock_core, stepWith_view] at hrsp hview
    rw [portEvents, viewTrace_append, viewAfter_append]
    refine ⟨?rsp, hview⟩
    case rsp =>
      rw [filterMap_rsp_portOuts_cons, List.filter_append, List.map_append, List.map_append, hrsp, stepWith_rsp,
        clock_rsp]
      cases (stepWith (cycleEvent c p i) p.core).rsp <;> rfl

end Refinement

section Reset
variable {c : PortConfig} {p : PortState} {i : Pins}

/-- The core cannot accept in a cycle with reset (R218). -/
theorem portReady_of_rst (h : i.rst = true) : portReady c p i = false := by
  simp [portReady, h]

/-- A cycle with reset depends on the core only (R242; log entry 7). -/
theorem clock_of_rst (h : i.rst = true) :
    clock c p i = ({ core := resetCore { p.core with host := [] }, flight := none }, { ready := false, rsp := none }) := by
  simp [clock, cycleEvent, flightAfter, portReady_of_rst, h, stepWith_reset]

/-- Settles O56: nothing in flight or presented is part of `clock_of_rst`. -/
theorem resetDiscardsCommandInFlight : Obligations.ResetDiscardsCommandInFlight := by
  intro c p cmd
  rw [clock_of_rst rfl, clock_of_rst rfl]
  exact ⟨rfl, rfl, rfl, resetCore_kv _⟩

end Reset

section Busy
variable {c : PortConfig} {p : PortState} {i : Pins} {f : InFlight}

theorem portReady_of_busy (hf : p.flight = some f) (hbusy : f.left ≠ 0 ∨ c.overlap = false) :
    portReady c p i = false := by
  rcases hbusy with h | h <;> simp [portReady, hf, h]

theorem accepted_of_not_ready (h : portReady c p i = false) : accepted c p i = none := by
  simp [accepted, h]

/-- A cycle looks at the word presented only to accept it. -/
theorem clock_eq_of_accepted_eq {i' : Pins} (hrst : i.rst = i'.rst) (hacc : accepted c p i = accepted c p i') :
    clock c p i = clock c p i' := by
  simp only [clock, cycleEvent, flightAfter, portReady, hrst, hacc]

/-- Settles O55: a port that is not ready accepts nothing, whatever is presented. -/
theorem busyPortAcceptsNothing : Obligations.BusyPortAcceptsNothing := by
  intro c p rst w hbusy
  have hready (cmd : Option CmdWord) : portReady c p ⟨rst, cmd⟩ = false := by
    rcases hbusy with hrst | ⟨f, hf, hleft⟩
    · exact portReady_of_rst hrst
    · exact portReady_of_busy hf hleft
  refine ⟨clock_eq_of_accepted_eq rfl ?_, (clock_ready c p _).trans (hready _)⟩
  rw [accepted_of_not_ready (hready _), accepted_of_not_ready (hready _)]

end Busy

section Cycles
variable {c : PortConfig} {p : PortState} {i : Pins} {f : InFlight} {w : CmdWord}

theorem accepted_of_idle (hrst : i.rst = false) (hf : p.flight = none) : accepted c p i = i.cmd := by
  simp [accepted, portReady, hrst, hf]

/-- With overlap no word accepted has latency 0: it would answer in the cycle of another response (log entry 8). -/
theorem latOf_ne_zero_of_accepted_due (hf : p.flight = some f) (hacc : accepted c p i = some w) : latOf c w ≠ 0 := by
  have hoverlap : c.overlap = true := by
    by_contra h
    rw [accepted_of_not_ready (portReady_of_busy hf (.inr (Bool.eq_false_iff.mpr h)))] at hacc
    cases hacc
  exact Nat.one_le_iff_ne_zero.mp (c.overlapOk hoverlap _)

/-- What a cycle puts in flight, when it accepts a word of latency other than 0. -/
theorem flightAfter_of_accepted (hrst : i.rst = false) (hacc : accepted c p i = some w) :
    flightAfter c p i = if latOf c w = 0 then none else some ⟨w, latOf c w - 1⟩ := by
  simp [flightAfter, hrst, hacc]

/-- A response still to come: the cycle only counts. -/
theorem cycle_of_waiting (hrst : i.rst = false) (hf : p.flight = some f) (hleft : f.left ≠ 0) :
    accepted c p i = none ∧ cycleEvent c p i = none ∧ flightAfter c p i = some ⟨f.word, f.left - 1⟩ := by
  have hacc : accepted c p i = none := accepted_of_not_ready (portReady_of_busy hf (.inl hleft))
  refine ⟨hacc, ?_, ?_⟩ <;> simp [cycleEvent, flightAfter, due, hrst, hf, hleft, hacc]

/-- A response due: the word in flight is performed. -/
theorem cycleEvent_of_due (hrst : i.rst = false) (hf : p.flight = some f) (hleft : f.left = 0) :
    cycleEvent c p i = some (.command f.word) := by
  simp [cycleEvent, due, hrst, hf, hleft]

/-- Nothing in flight: a word accepted with latency 0 is performed at once. -/
theorem cycleEvent_of_idle (hrst : i.rst = false) (hf : p.flight = none) :
    cycleEvent c p i = (accepted c p i).bind fun w => if latOf c w = 0 then some (.command w) else none := by
  simp only [cycleEvent, due, hrst, hf]
  cases accepted c p i <;> rfl

theorem flightAfter_of_accepted_none (hrst : i.rst = false) (hacc : accepted c p i = none) :
    flightAfter c p i = p.flight.bind fun f => if f.left = 0 then none else some ⟨f.word, f.left - 1⟩ := by
  simp only [flightAfter, hrst, hacc]
  cases p.flight <;> rfl

/-- The words in flight as what the core has still to do: one or none. -/
def flightEvents (o : Option InFlight) : List HostEvent := o.toList.map fun f => .command f.word

/-- No cycle drops, doubles or invents a word: what was in flight and what is accepted is performed or in flight after it. -/
theorem cycle_conserves_words (hrst : i.rst = false) :
    (cycleEvent c p i).toList ++ flightEvents (flightAfter c p i) =
      flightEvents p.flight ++ (accepted c p i).toList.map .command := by
  cases hf : p.flight with
  | none =>
    rw [cycleEvent_of_idle hrst hf]
    cases hacc : accepted c p i with
    | none => simp [flightAfter_of_accepted_none hrst hacc, hf, flightEvents]
    | some w =>
      rw [flightAfter_of_accepted hrst hacc]
      by_cases hlat : latOf c w = 0 <;> simp [hlat, flightEvents]
  | some f =>
    by_cases hleft : f.left = 0
    case pos =>
      rw [cycleEvent_of_due hrst hf hleft]
      cases hacc : accepted c p i with
      | none => simp [flightAfter_of_accepted_none hrst hacc, hf, hleft, flightEvents]
      | some w => simp [flightAfter_of_accepted hrst hacc, latOf_ne_zero_of_accepted_due hf hacc, flightEvents]
    case neg =>
      obtain ⟨hacc, hevent, hflight⟩ := cycle_of_waiting (c := c) hrst hf hleft
      simp [hacc, hevent, hflight, flightEvents]

/-- Settles O58, by induction on the cycles, each of which conserves the words. -/
theorem acceptedCommandsPerformedInOrder : Obligations.AcceptedCommandsPerformedInOrder := by
  intro c p pins hrst
  change portEvents c p pins ++ flightEvents (portAfter c p pins).flight =
    flightEvents p.flight ++ (portAccepted c p pins).map .command
  induction pins generalizing p with
  | nil => simp [portEvents, portAfter, portAccepted]
  | cons i is ih =>
    obtain ⟨hi, his⟩ := List.forall_mem_cons.mp hrst
    rw [portEvents, portAfter, portAccepted, List.append_assoc, ih (clock c p i).1 his, clock_flight, ← List.append_assoc,
      cycle_conserves_words hi, List.append_assoc, List.map_append]

/-- What is in flight with `n` cycles left is answered after `n` cycles without a response (R253). -/
theorem rsp_portOuts_of_flight (n : Nat) {pins : List Pins} (hf : p.flight = some ⟨w, n⟩)
    (hrst : ∀ i ∈ pins, i.rst = false) (hlen : pins.length = n + 1) :
    (portOuts c p pins).map PortOut.rsp =
      List.replicate n none ++ [some (perform tables p.core.regs (decodeCommand w)).2.word] := by
  induction n generalizing p pins with
  | zero =>
    obtain ⟨i, rfl⟩ := List.length_eq_one_iff.mp hlen
    rw [portOuts, portOuts, List.map_singleton, clock_rsp, cycleEvent_of_due (hrst i List.mem_cons_self) hf rfl,
      stepWith_command]
    rfl
  | succ n ih =>
    obtain ⟨i, is, rfl⟩ := List.exists_cons_of_length_eq_add_one hlen
    obtain ⟨hi, his⟩ := List.forall_mem_cons.mp hrst
    obtain ⟨-, hevent, hflight⟩ := cycle_of_waiting (c := c) hi hf (Nat.succ_ne_zero n)
    rw [portOuts, List.map_cons, ih hflight his (Nat.succ_inj.mp hlen), clock_rsp, clock_core, hevent, stepWith_none]
    rfl

/-- Settles O57: with latency 0 the command is answered in its own cycle, else that cycle puts it in flight with one cycle
less to wait. -/
theorem responseAfterLatency : Obligations.ResponseAfterLatency := by
  intro c p w first later hf hrst hcmd hlater hlen
  have hacc : accepted c p first = some w := (accepted_of_idle hrst hf).trans hcmd
  have hevent := cycleEvent_of_idle (c := c) hrst hf
  have hflight := flightAfter_of_accepted hrst hacc
  rw [hacc, Option.bind_some] at hevent
  rw [portOuts, List.map_cons, clock_rsp]
  rcases hlat : latOf c w with _ | n <;> rw [hlat] at hevent hflight hlen
  case zero =>
    obtain rfl := List.length_eq_zero_iff.mp hlen
    rw [hevent, if_pos rfl, stepWith_command]
    rfl
  case succ =>
    rw [if_neg (Nat.succ_ne_zero n)] at hevent hflight
    rw [rsp_portOuts_of_flight n hflight hlater hlen, clock_core, hevent, stepWith_none]
    rfl

end Cycles

end Sys2Proof.Proofs
end

section
/-!
PROOFS. Command words and their commands. The encoder undoes the decoder on every legal word, and the fields of a word are
read off its number (R93) or off its wires (R81), so what a word does may be said of either.
-/

namespace Sys2Proof.Proofs

open Sys2Proof.Machine Sys2Proof.Laws

/-- Settles O1: `decode_encode`, one case per row of the opcode map. -/
theorem decodeOfEncode : Obligations.DecodeOfEncode := by
  intro i
  exact decode_encode i

section EncodedFields
variable (w : CmdWord)

/-- A word of format K is its two fields (R82). -/
theorem opField_append_keyField : (opField w ++ keyField w : BitVec (2 + 10)) = w := by
  unfold opField keyField
  rw [BitVec.extractLsb'_append_extractLsb'_eq_extractLsb' (by decide)]
  exact BitVec.extractLsb'_eq_self

/-- A word of format B is its three fields, put together as the encoder does (R83). -/
theorem blockFields_append :
    (opField w ++ padField w ++ blkField w : BitVec (2 + 2 + 8)) = w :=
  word_eq_iff_fields.mpr (fields_of_append _ _ _)

/-- Settles O2: the decoder reads every field of a legal word, and the encoder puts them back. -/
theorem encodeOfDecode : Obligations.EncodeOfDecode := by
  intro w i h
  rcases decode_eq_ok_iff.mp h with ⟨hop, rfl⟩ | ⟨hop, hpad, rfl⟩ | ⟨hop, hpad, rfl⟩
  case inl => rw [encode, ← hop, opField_append_keyField]
  case inr.inl => rw [encode, ← hop, ← hpad, blockFields_append]
  case inr.inr => rw [encode, ← hop, ← hpad, blockFields_append]

end EncodedFields

/-- Settles O7: each word is evaluated. -/
theorem sampleWordsDecode : Obligations.SampleWordsDecode := by
  unfold Obligations.SampleWordsDecode
  decide

section Ranges
variable {w : CmdWord}

theorem toNat_opField (w : CmdWord) : (opField w).toNat = w.toNat / 1024 := by
  have hlt := w.isLt
  rw [opField, BitVec.extractLsb'_toNat, Nat.shiftRight_eq_div_pow]
  omega

theorem toNat_padField (w : CmdWord) : (padField w).toNat = w.toNat / 256 % 4 := by
  rw [padField, BitVec.extractLsb'_toNat, Nat.shiftRight_eq_div_pow]

theorem opField_eq_iff {op : Bits 2} : opField w = op ↔ w.toNat / 1024 = op.toNat := by
  rw [← BitVec.toNat_inj, toNat_opField]

theorem padField_eq_iff {pad : Bits 2} : padField w = pad ↔ w.toNat / 256 % 4 = pad.toNat := by
  rw [← BitVec.toNat_inj, toNat_padField]

theorem loadkey_range_iff : (∃ k, decode w = .ok (.loadkey k)) ↔ 0x400 ≤ w.toNat ∧ w.toNat ≤ 0x7FF := by
  simp only [decode_eq_loadkey_iff, exists_and_left, exists_eq', and_true, opField_eq_iff, BitVec.toNat_ofNat]
  omega

theorem encrypt_range_iff : (∃ b, decode w = .ok (.encrypt b)) ↔ 0x800 ≤ w.toNat ∧ w.toNat ≤ 0x8FF := by
  simp only [decode_eq_encrypt_iff, exists_and_left, exists_eq', and_true, opField_eq_iff, padField_eq_iff,
    BitVec.toNat_ofNat]
  omega

theorem decrypt_range_iff : (∃ b, decode w = .ok (.decrypt b)) ↔ 0xC00 ≤ w.toNat ∧ w.toNat ≤ 0xCFF := by
  simp only [decode_eq_decrypt_iff, exists_and_left, exists_eq', and_true, opField_eq_iff, padField_eq_iff,
    BitVec.toNat_ofNat]
  omega

theorem opZero_range_iff : decode w = .error .opZero ↔ w.toNat ≤ 0x3FF := by
  simp only [decode_eq_error_iff, reduceCtorEq, and_false, or_false, and_true, opField_eq_iff, BitVec.toNat_ofNat]
  omega

theorem padNonzero_range_iff :
    decode w = .error .padNonzero ↔ 0x900 ≤ w.toNat ∧ w.toNat ≤ 0xBFF ∨ 0xD00 ≤ w.toNat ∧ w.toNat ≤ 0xFFF := by
  have hlt := w.isLt
  simp only [decode_eq_error_iff, reduceCtorEq, and_false, false_or, and_true, ne_eq, opField_eq_iff, padField_eq_iff,
    BitVec.toNat_ofNat]
  omega

end Ranges

section Counts

/-- The kind of the command a word stands for is the constructor the decoder answers (R93). -/
theorem kind_decodeCommand_eq_iff (w : CmdWord) :
    ((decodeCommand w).kind = .loadkey ↔ ∃ k, decode w = .ok (.loadkey k)) ∧
      ((decodeCommand w).kind = .encrypt ↔ ∃ b, decode w = .ok (.encrypt b)) ∧
      ((decodeCommand w).kind = .decrypt ↔ ∃ b, decode w = .ok (.decrypt b)) := by
  unfold decodeCommand
  rcases decode w with e | (k | b | b) <;> simp [Command.kind]

/-- The kind of the word with this number. -/
def kindOfNumber (n : Fin 4096) : CmdKind := (decodeCommand (BitVec.ofFin n)).kind

/-- What a function sends to one kind. -/
def fiberOfKind {α : Type} [Fintype α] (f : α → CmdKind) (kind : CmdKind) : Finset α :=
  Finset.univ.filter fun a => f a = kind

theorem card_numbersOfKind_of_range {kind : CmdKind} (lo hi : Fin 4096)
    (h : ∀ w : CmdWord, (decodeCommand w).kind = kind ↔ lo.val ≤ w.toNat ∧ w.toNat ≤ hi.val) :
    (fiberOfKind kindOfNumber kind).card = hi.val + 1 - lo.val := by
  have hset : fiberOfKind kindOfNumber kind = Finset.Icc lo hi := by
    ext n
    rw [fiberOfKind, Finset.mem_filter_univ, kindOfNumber, h, Finset.mem_Icc, Fin.le_def, Fin.le_def,
      BitVec.toNat_ofFin]
  rw [hset, Fin.card_Icc]

/-- The three commands: each kind fills its range. -/
theorem card_numbersOfKind_legal :
    (fiberOfKind kindOfNumber .loadkey).card = 1024 ∧ (fiberOfKind kindOfNumber .encrypt).card = 256 ∧
      (fiberOfKind kindOfNumber .decrypt).card = 256 := by
  refine ⟨card_numbersOfKind_of_range 0x400 0x7FF fun w => ?_, card_numbersOfKind_of_range 0x800 0x8FF fun w => ?_,
    card_numbersOfKind_of_range 0xC00 0xCFF fun w => ?_⟩ <;>
    obtain ⟨hloadkey, hencrypt, hdecrypt⟩ := kind_decodeCommand_eq_iff w
  · exact hloadkey.trans loadkey_range_iff
  · exact hencrypt.trans encrypt_range_iff
  · exact hdecrypt.trans decrypt_range_iff

/-- Everything is of exactly one kind. -/
theorem sum_card_fiberOfKind {α : Type} [Fintype α] (f : α → CmdKind) :
    (fiberOfKind f .loadkey).card + ((fiberOfKind f .encrypt).card + ((fiberOfKind f .decrypt).card +
      (fiberOfKind f .illegal).card)) = Fintype.card α := by
  have hmaps : ∀ a ∈ (Finset.univ : Finset α), f a ∈ ({.loadkey, .encrypt, .decrypt, .illegal} : Finset CmdKind) := by
    intro a _
    cases f a <;> decide
  rw [← Finset.card_univ, Finset.card_eq_sum_card_fiberwise hmaps, Finset.sum_insert (by decide),
    Finset.sum_insert (by decide), Finset.sum_insert (by decide), Finset.sum_singleton]
  rfl

/-- The illegal words are what the three commands leave of 4096. -/
theorem card_numbersOfKind_illegal : (fiberOfKind kindOfNumber .illegal).card = 2560 := by
  have hsum := sum_card_fiberOfKind kindOfNumber
  obtain ⟨hloadkey, hencrypt, hdecrypt⟩ := card_numbersOfKind_legal
  rw [hloadkey, hencrypt, hdecrypt, Fintype.card_fin] at hsum
  generalize (fiberOfKind kindOfNumber .illegal).card = m at hsum ⊢
  omega

/-- Settles O4: the ranges are the conditions on `op` and `pad` as numbers; the counts are the lengths of the ranges. -/
theorem decoderTotalByRanges : Obligations.DecoderTotalByRanges := by
  obtain ⟨hloadkey, hencrypt, hdecrypt⟩ := card_numbersOfKind_legal
  exact ⟨fun _ => ⟨loadkey_range_iff, encrypt_range_iff, decrypt_range_iff, opZero_range_iff, padNonzero_range_iff⟩,
    hloadkey, hencrypt, hdecrypt, card_numbersOfKind_illegal⟩

end Counts

section SubkeySelect
variable {w : CmdWord}

/-- The two high wires of a word of format B: wire 11 says that it is one, wire 10 which (R187). -/
theorem opField_of_wires (h11 : w.getLsbD 11 = true) : opField w = if w.getLsbD 10 then 0b11#2 else 0b10#2 := by
  have hlow : (opField w).getLsbD 0 = w.getLsbD 10 := by simp [opField]
  have hhigh : (opField w).getLsbD 1 = true := by simp [opField, h11]
  have hop : ∀ op : Bits 2, op.getLsbD 1 = true → op = if op.getLsbD 0 then 0b11#2 else 0b10#2 := by decide
  rw [← hlow]
  exact hop _ hhigh

/-- Settles O35: wire 10 picks the row, and both rows answer with the cipher. -/
theorem subkeySelectByWire10 : Obligations.SubkeySelectByWire10 := by
  intro w rest s hs h11 hpad hkv
  cases h10 : w.getLsbD 10 with
  | false =>
    have hop : opField w = 0b10#2 := by rw [opField_of_wires h11, h10]; rfl
    rw [encryptWord w rest s hs hop]
    simp [hpad, hkv]
  | true =>
    have hop : opField w = 0b11#2 := by rw [opField_of_wires h11, h10]; rfl
    rw [decryptWord w rest s hs hop]
    simp [hpad, hkv]

end SubkeySelect

section Presented
variable (w : CmdWord) (s : State)

/-- A command word among sixteen table bits is itself: no bit lies above wire 11 (R81). -/
theorem tableBits_toNat : w.toNat % 2 ^ 16 = w.toNat ∧ w.toNat < 4096 := by
  have hlt : w.toNat < 4096 := w.isLt
  omega

theorem withFetchWord_toNat : s.withFetchWord 16 w.toNat = present w s := by
  obtain ⟨hmod, hlt⟩ := tableBits_toNat w
  rw [State.withFetchWord, presentTableWord, hmod, if_pos hlt, BitVec.ofNat_toNat, BitVec.setWidth_eq]

theorem decodeTableWord_toNat : decodeTableWord 16 w.toNat = (decode w).toOption := by
  obtain ⟨hmod, hlt⟩ := tableBits_toNat w
  rw [decodeTableWord, hmod, if_pos hlt, BitVec.ofNat_toNat, BitVec.setWidth_eq]

/-- Settles O39: the word presented is the host's first event, and the decoder reads the instruction back. -/
theorem stepRunsPresentedWord : Obligations.StepRunsPresentedWord := by
  intro i s
  rw [withFetchWord_toNat, decodeTableWord_toNat, step_of_encoded (present_host s (encode i)), decode_encode]
  exact ⟨rfl, rfl⟩

/-- Settles O38: the step performs the command the word decodes to. -/
theorem stepRunsDecoded : Obligations.StepRunsDecoded := by
  intro w i rest s hs hw
  rw [step_of_command hs, decodeCommand_of_ok hw, exec_eq_perform]

end Presented

section Instructions

/-- Settles O26: `exec_loadkey`, field by field. -/
theorem loadkeyCompletes : Obligations.LoadkeyCompletes := by
  intro k s
  exact exec_loadkey

/-- Settles O36: a meaning answers with the registers of `perform`, and answering writes nothing else. -/
theorem instructionFrames : Obligations.InstructionFrames := by
  intro i s t h
  cases (exec_eq_perform i s).symm.trans h
  refine ⟨answer_host _ _, answer_fresh _ _, ?loadkey, ?block⟩
  case loadkey =>
    rintro k rfl
    rw [answer_regs, perform_loadkey_regs]
    exact ⟨rfl, rfl⟩
  case block =>
    intro hi
    rw [answer_regs]
    cases i with
    | loadkey k => exact absurd rfl (hi k)
    | encrypt b => exact perform_encrypt_regs tables s.regs b
    | decrypt b => exact perform_decrypt_regs tables s.regs b

/-- Settles O42: LOADKEY completes in every state, and the block commands find the KV = 0 of reset. -/
theorem afterResetOnlyLoadkey : Obligations.AfterResetOnlyLoadkey := by
  refine ⟨rfl, rfl, fun k => ⟨_, exec_loadkey, rfl⟩, fun b => ?_⟩
  obtain ⟨hencrypt, hdecrypt⟩ := keyNotLoadedAnswer b State.reset rfl
  exact ⟨_, _, hencrypt, rfl, hdecrypt, rfl⟩

/-- Settles O34: the three steps are evaluated. -/
theorem referenceFixture : Obligations.ReferenceFixture := by
  exact ⟨by decide +kernel, _, rfl, by decide⟩

end Instructions

section Steps

/-- Settles O40: `step_of_no_event`. -/
theorem idleKeepsRegisters : Obligations.IdleKeepsRegisters := by
  intro s hs
  exact step_of_no_event hs

/-- What a step does to the registers: nothing, or a reset's or a LOADKEY's work on KV (R35, R37). -/
theorem step_regs_cases {s t : State} (hstep : step s = .next t) :
    t.regs = s.regs ∨
    (∃ rest, s.host = .reset :: rest) ∧ t.regs.kv = false ∨
    (∃ w rest k, s.host = .command w :: rest ∧ decode w = .ok (.loadkey k)) ∧ t.regs.kv = true := by
  rcases step_cases s with ⟨_, h⟩ | ⟨rest, hs, _⟩ | ⟨w, rest, hs, _⟩
  case inl =>
    cases hstep.symm.trans h
    exact .inl (idle_regs s)
  case inr.inl => exact .inr (.inl ⟨⟨rest, hs⟩, kv_of_reset_step hstep hs⟩)
  case inr.inr =>
    by_cases hw : ∃ k, decode w = .ok (.loadkey k)
    case pos =>
      obtain ⟨k, hk⟩ := hw
      refine .inr (.inr ⟨⟨w, rest, k, hs, hk⟩, ?_⟩)
      rw [regs_of_legal_step hstep hs hk, perform_loadkey_regs]
    case neg =>
      refine .inl ((regs_of_command_step hstep hs).trans ?_)
      exact perform_regs_of_not_loadkey tables s.regs (not_exists.mp hw)

/-- Settles O44, by `step_regs_cases`. -/
theorem keyValidChangesOnlyBy : Obligations.KeyValidChangesOnlyBy := by
  intro s t hstep
  rcases step_regs_cases hstep with hregs | ⟨hreset, hkv⟩ | ⟨hload, hkv⟩
  · rw [hregs]
    constructor <;> intro h h' <;> cases h.symm.trans h'
  · exact ⟨fun _ h => (by cases hkv.symm.trans h), fun _ _ => hreset⟩
  · exact ⟨fun _ _ => hload, fun _ h => (by cases hkv.symm.trans h)⟩

/-- Settles O45: `run_keeps_regs`. -/
theorem instanceKeepsRegisters : Obligations.InstanceKeepsRegisters := by
  intro n s t hs hrun
  exact run_keeps_regs n hs hrun

/-- Settles O46: every step gives a next state, so every run does. -/
theorem everyRunIsSafe : Obligations.EveryRunIsSafe := by
  intro n s
  exact exists_run_eq_next n s

/-- Settles O47: of the three things a step can do, answering a command alone leaves a response. -/
theorem oneResponsePerCommand : Obligations.OneResponsePerCommand := by
  intro s t hstep
  refine ⟨step_host hstep, ?_⟩
  rcases step_cases s with ⟨hs, h⟩ | ⟨rest, hs, h⟩ | ⟨w, rest, hs, h⟩ <;> cases hstep.symm.trans h <;> simp [hs]

end Steps

end Sys2Proof.Proofs
end

section
/-!
PROOFS. The laws of the permutation engine and of rotation (R114, R132). A table is its entries, and two sequences are
equal when they hold the same bits, so each law is a fact about positions.
-/

namespace Sys2Proof.Proofs

open Sys2Proof.Machine Sys2Proof.Laws

section Constants
variable {n i : Nat}

@[simp] theorem pos_zero : pos (0#n) i = false := BitVec.getMsbD_zero

theorem pos_allOnes (h1 : 1 ≤ i) (h2 : i ≤ n) : pos (BitVec.allOnes n) i = true := by
  have hlt : i - 1 < n := by omega
  simp [pos, BitVec.getMsbD_allOnes, hlt]

/-- Sequences tell the positions apart. -/
theorem eq_of_pos_eq {j : Nat} (hi1 : 1 ≤ i) (hi2 : i ≤ n) (hj1 : 1 ≤ j) (hj2 : j ≤ n)
    (h : ∀ s : Bits n, pos s i = pos s j) : i = j := by
  have hmark := h (ofPos n fun e => decide (e = j))
  rw [pos_ofPos hi1 hi2, pos_ofPos hj1 hj2] at hmark
  simpa using hmark

end Constants

section Entries
variable {n m : Nat} (t u : PermTable n m)

theorem length_entries : t.entries.length = m := (permWf_iff.mp t.wf).1

/-- A table is its entries, position 1 first. -/
theorem entries_eq_map : t.entries = (List.range' 1 m).map (tableEntry t) := by
  refine List.ext_getElem (by simp [length_entries]) fun i hi _ => ?_
  simp [tableEntry, hi]

variable {t u} in
theorem table_ext (h : ∀ j, 1 ≤ j → j ≤ m → tableEntry t j = tableEntry u j) : t = u := by
  have hentries : t.entries = u.entries := by
    rw [entries_eq_map t, entries_eq_map u, List.map_inj_left]
    intro j hj
    obtain ⟨h1, h2⟩ := List.mem_range'_1.mp hj
    exact h j h1 (by omega)
  cases t
  cases u
  cases hentries
  rfl

/-- How often an entry occurs is the number of output positions that copy it (R119). -/
theorem card_filter_tableEntry (v : Nat) :
    ((Finset.Icc 1 m).filter fun j => tableEntry t j = v).card = t.entries.count v := by
  rw [entries_eq_map t, Nat.Icc_eq_range', List.count, List.countP_map, List.countP_eq_length_filter]
  rfl

/-- The table with these entries. -/
def tableOf (f : Nat → Nat) (h : ∀ j, 1 ≤ j → j ≤ m → 1 ≤ f j ∧ f j ≤ n) : PermTable n m where
  entries := (List.range' 1 m).map f
  wf := by
    refine permWf_iff.mpr ⟨by simp, fun e he => ?_⟩
    obtain ⟨j, hj, rfl⟩ := List.mem_map.mp he
    obtain ⟨h1, h2⟩ := List.mem_range'_1.mp hj
    exact h j h1 (by omega)

theorem tableEntry_tableOf {f : Nat → Nat} {h : ∀ j, 1 ≤ j → j ≤ m → 1 ≤ f j ∧ f j ≤ n} {j : Nat} (h1 : 1 ≤ j)
    (h2 : j ≤ m) : tableEntry (tableOf f h) j = f j := by
  have hlt : j - 1 < m := by omega
  simp [tableEntry, tableOf, hlt, Nat.add_sub_cancel' h1]

end Entries

section Engine
variable {n m : Nat} (t : PermTable n m)

/-- Settles O11: each table undoes the other (R118). -/
theorem ipAndIpinvUndoEachOther : Obligations.IpAndIpinvUndoEachOther := by
  intro T s
  exact ⟨permute_IP_IPINV T s, permute_IPINV_IP T s⟩

/-- Settles O12: a table copies positions, and EP is checked to use each twice. -/
theorem expansionUsesEachBitTwice : Obligations.ExpansionUsesEachBitTwice := by
  intro T
  refine ⟨fun h j h1 h2 => ?copies, fun v h1 h2 => ?twice⟩
  case copies =>
    obtain ⟨hlow, hhigh⟩ := tableEntry_mem T.EP h1 h2
    exact ⟨hlow, hhigh, pos_permute h T.EP h1 h2⟩
  case twice => rw [card_filter_tableEntry, twiceWf_iff.mp T.twice v h1 h2]

theorem permute_xor (a b : Bits n) : permute (a ^^^ b) t = permute a t ^^^ permute b t := by
  refine ext_pos fun j h1 h2 => ?_
  rw [pos_xor, pos_permute _ _ h1 h2, pos_permute _ _ h1 h2, pos_permute _ _ h1 h2, pos_xor]

theorem permute_zero : permute (0#n) t = 0#m := by
  refine ext_pos fun j h1 h2 => ?_
  rw [pos_permute _ _ h1 h2, pos_zero, pos_zero]

theorem permute_allOnes : permute (BitVec.allOnes n) t = BitVec.allOnes m := by
  refine ext_pos fun j h1 h2 => ?_
  obtain ⟨hlow, hhigh⟩ := tableEntry_mem t h1 h2
  rw [pos_permute _ _ h1 h2, pos_allOnes hlow hhigh, pos_allOnes h1 h2]

/-- Two tables in a row are one, by composition. -/
theorem permute_permute {l : Nat} (u : PermTable m l) (w : PermTable n l) (s : Bits n)
    (h : ∀ j, 1 ≤ j → j ≤ l → tableEntry w j = tableEntry t (tableEntry u j)) :
    permute (permute s t) u = permute s w := by
  refine ext_pos fun j h1 h2 => ?_
  obtain ⟨hlow, hhigh⟩ := tableEntry_mem u h1 h2
  rw [pos_permute _ _ h1 h2, pos_permute _ _ hlow hhigh, pos_permute _ _ h1 h2, h j h1 h2]

theorem permute_of_identity (t : PermTable n n) (s : Bits n) (h : ∀ j, 1 ≤ j → j ≤ n → tableEntry t j = j) :
    permute s t = s := by
  refine ext_pos fun j h1 h2 => ?_
  rw [pos_permute _ _ h1 h2, h j h1 h2]

end Engine

section Inverse
variable {n : Nat} {t t' : PermTable n n}

/-- Two tables undo each other on sequences exactly when they do on positions. -/
theorem permute_permute_eq_self_iff :
    (∀ s : Bits n, permute (permute s t) t' = s) ↔
      ∀ j, 1 ≤ j → j ≤ n → tableEntry t (tableEntry t' j) = j := by
  have hpos {j : Nat} (h1 : 1 ≤ j) (h2 : j ≤ n) (s : Bits n) :
      pos (permute (permute s t) t') j = pos s (tableEntry t (tableEntry t' j)) := by
    obtain ⟨hlow, hhigh⟩ := tableEntry_mem t' h1 h2
    rw [pos_permute _ _ h1 h2, pos_permute _ _ hlow hhigh]
  constructor
  · intro h j h1 h2
    obtain ⟨hlow, hhigh⟩ := tableEntry_mem t' h1 h2
    obtain ⟨hlow', hhigh'⟩ := tableEntry_mem t hlow hhigh
    refine eq_of_pos_eq hlow' hhigh' h1 h2 fun s => ?_
    rw [← hpos h1 h2, h]
  · intro h s
    refine ext_pos fun j h1 h2 => ?_
    rw [hpos h1 h2, h j h1 h2]

variable (hcount : ∀ v, 1 ≤ v → v ≤ n → t.entries.count v = 1)
include hcount

theorem surjOn_tableEntry : Set.SurjOn (tableEntry t) (Finset.Icc 1 n) (Finset.Icc 1 n) := by
  intro v hv
  obtain ⟨h1, h2⟩ := Finset.mem_Icc.mp hv
  have hmem : v ∈ t.entries := List.count_pos_iff.mp (by rw [hcount v h1 h2]; exact one_pos)
  rw [entries_eq_map] at hmem
  obtain ⟨j, hj, hjv⟩ := List.mem_map.mp hmem
  obtain ⟨hj1, hj2⟩ := List.mem_range'_1.mp hj
  exact ⟨j, Finset.mem_coe.mpr (Finset.mem_Icc.mpr ⟨hj1, by omega⟩), hjv⟩

/-- A table that uses each position once has an inverse: it reaches every position, and so no position twice. -/
theorem exists_inverse_table :
    ∃ t' : PermTable n n, ∀ j, 1 ≤ j → j ≤ n → tableEntry t (tableEntry t' j) = j ∧ tableEntry t' (tableEntry t j) = j := by
  have hsurj := surjOn_tableEntry hcount
  have hmaps : Set.MapsTo (tableEntry t) (Finset.Icc 1 n) (Finset.Icc 1 n) := by
    intro j hj
    obtain ⟨h1, h2⟩ := Finset.mem_Icc.mp hj
    exact Finset.mem_Icc.mpr (tableEntry_mem t h1 h2)
  have hinj : Set.InjOn (tableEntry t) (Finset.Icc 1 n) := Finset.injOn_of_surjOn_of_card_le _ hmaps hsurj le_rfl
  have hinv := hsurj.mapsTo_invFunOn
  refine ⟨tableOf (Function.invFunOn (tableEntry t) (Finset.Icc 1 n)) fun j h1 h2 =>
    Finset.mem_Icc.mp (hinv (Finset.mem_Icc.mpr ⟨h1, h2⟩)), fun j h1 h2 => ⟨?right, ?left⟩⟩
  case right =>
    rw [tableEntry_tableOf h1 h2]
    exact hsurj.rightInvOn_invFunOn (Finset.mem_Icc.mpr ⟨h1, h2⟩)
  case left =>
    obtain ⟨hlow, hhigh⟩ := tableEntry_mem t h1 h2
    rw [tableEntry_tableOf hlow hhigh]
    exact hinj.leftInvOn_invFunOn (Finset.mem_Icc.mpr ⟨h1, h2⟩)

/-- The inverse is the only table that takes `t` back on every sequence. -/
theorem exists_unique_inverse_table :
    ∃ t' : PermTable n n,
      (∀ s : Bits n, permute (permute s t) t' = s) ∧
      (∀ j, 1 ≤ j → j ≤ n → tableEntry t' (tableEntry t j) = j) ∧
      (∀ t'' : PermTable n n, (∀ s : Bits n, permute (permute s t) t'' = s) → t'' = t') := by
  obtain ⟨t', ht'⟩ := exists_inverse_table hcount
  refine ⟨t', permute_permute_eq_self_iff.mpr fun j h1 h2 => (ht' j h1 h2).1, fun j h1 h2 => (ht' j h1 h2).2,
    fun t'' ht'' => table_ext fun j h1 h2 => ?_⟩
  obtain ⟨hlow, hhigh⟩ := tableEntry_mem t'' h1 h2
  calc tableEntry t'' j = tableEntry t' (tableEntry t (tableEntry t'' j)) := (ht' _ hlow hhigh).2.symm
    _ = tableEntry t' j := by rw [permute_permute_eq_self_iff.mp ht'' j h1 h2]

end Inverse

/-- Settles O14, law by law. -/
theorem permuteLaws : Obligations.PermuteLaws := by
  refine ⟨fun _ => permute_of_identity, ?reversal, fun _ _ => permute_xor,
    fun _ _ t => ⟨permute_zero t, permute_allOnes t⟩, fun _ _ _ t => permute_permute t,
    fun _ _ => exists_unique_inverse_table⟩
  case reversal =>
    intro n t s h j h1 h2
    rw [pos_permute _ _ h1 h2, h j h1 h2]

section Rotation
variable {n : Nat}

/-- A rotation by a multiple of the length goes round to where it began. -/
theorem rotate_of_mod_eq_zero {r : Nat} (h : Bits n) (hr : r % n = 0) : rotate h r = h := by
  refine ext_pos fun i h1 h2 => ?_
  have hback : (i - 1 + r) % n + 1 = i := by
    rw [← Nat.add_mod_mod, hr, Nat.add_zero, Nat.mod_eq_of_lt (by omega), Nat.sub_add_cancel h1]
  rw [pos_rotate h r h1 h2, hback]

theorem rotate_zero_bits (r : Nat) : rotate (0#n) r = 0#n := by
  refine ext_pos fun i h1 h2 => ?_
  rw [pos_rotate _ r h1 h2, pos_zero, pos_zero]

theorem rotate_allOnes (r : Nat) : rotate (BitVec.allOnes n) r = BitVec.allOnes n := by
  refine ext_pos fun i h1 h2 => ?_
  have hrange : (i - 1 + r) % n + 1 ≤ n := Nat.mod_lt _ (by omega)
  rw [pos_rotate _ r h1 h2, pos_allOnes (Nat.le_add_left 1 _) hrange, pos_allOnes h1 h2]

theorem rotate_xor (r : Nat) (a b : Bits n) : rotate (a ^^^ b) r = rotate a r ^^^ rotate b r := by
  refine ext_pos fun i h1 h2 => ?_
  rw [pos_xor, pos_rotate _ r h1 h2, pos_rotate _ r h1 h2, pos_rotate _ r h1 h2, pos_xor]

end Rotation

/-- Settles O16, law by law; 1 then 2 is a case of the sum. -/
theorem rotateLaws : Obligations.RotateLaws := by
  exact ⟨fun _ a b h => rotate_rotate h a b,
    fun n h => ⟨rotate_of_mod_eq_zero h (Nat.mod_self n), rotate_of_mod_eq_zero h (Nat.zero_mod n)⟩,
    fun left0 => rotate_rotate left0 1 2, fun _ r => ⟨rotate_zero_bits r, rotate_allOnes r⟩, fun _ => rotate_xor⟩

end Sys2Proof.Proofs
end

section
/-!
PROOFS. The key schedule as wiring. Under the default tables (log entry 5) each subkey is the key through one table of
shape 10→8 (R140); which bits a subkey depends on and which keys give equal subkeys (R136) are read off its entries.
-/

namespace Sys2Proof.Proofs

open Sys2Proof.Machine Sys2Proof.Laws

section Digits
variable {n m : Nat}

/-- A permuted sequence digit by digit: one digit per entry of the table (R96, R110). -/
theorem toDigits_permute (s : Bits n) (t : PermTable n m) :
    toDigits (permute s t) = t.entries.map fun e => bitVal (pos s e) := by
  rw [entries_eq_map t, List.map_map, List.range'_eq_map_range, List.map_map, toDigits, List.map_inj_left]
  intro i hi
  have hlt := List.mem_range.mp hi
  rw [Function.comp_apply, Function.comp_apply, Nat.add_comm 1 i, pos_permute s t (Nat.le_add_left 1 i) hlt]

/-- A permuted sequence depends only on the positions in the table. -/
theorem permute_congr {s s' : Bits n} (t : PermTable n m) (h : ∀ e ∈ t.entries, pos s e = pos s' e) :
    permute s t = permute s' t := by
  refine ext_pos fun j h1 h2 => ?_
  have hmem : tableEntry t j ∈ t.entries := by
    rw [entries_eq_map t]
    exact List.mem_map_of_mem (List.mem_range'_1.mpr ⟨h1, by omega⟩)
  rw [pos_permute _ _ h1 h2, pos_permute _ _ h1 h2, h _ hmem]

end Digits

section Wiring
variable (k : Bits 10)

/-- The key bits of K1 under the default tables (R140). -/
def wiringK1 : PermTable 10 8 := ⟨[1, 7, 9, 4, 8, 3, 10, 6], by decide⟩

/-- The key bits of K2 under the default tables (R140). -/
def wiringK2 : PermTable 10 8 := ⟨[8, 3, 6, 5, 10, 2, 9, 1], by decide⟩

/-- P10, a rotation of the halves and P8 are one table when its entries are theirs one after the other. -/
theorem permute_rotateHalves_eq {T : Tbl} {r : Nat} {w : PermTable 10 8}
    (h : ∀ j ∈ Finset.Icc 1 8, tableEntry T.P10 (halfSource r (tableEntry T.P8 j)) = tableEntry w j) :
    permute (rotateHalves (permute k T.P10) r) T.P8 = permute k w := by
  refine ext_pos fun j h1 h2 => ?_
  rw [pos_permute_rotateHalves T k r h1 h2, pos_permute k w h1 h2, h j (Finset.mem_Icc.mpr ⟨h1, h2⟩)]

theorem generateKeys_tables : generateKeys tables k = (permute k wiringK1, permute k wiringK2) := by
  rw [generateKeys_eq, permute_rotateHalves_eq k (w := wiringK1) (by decide),
    permute_rotateHalves_eq k (w := wiringK2) (by decide)]

/-- Settles O18: both subkeys are `permute` with a fixed table; the bits left out are not among its entries. -/
theorem defaultScheduleWiring : Obligations.DefaultScheduleWiring := by
  have hK1 : ∀ e ∈ wiringK1.entries, 1 ≤ e ∧ e ≤ 10 ∧ e ≠ 2 ∧ e ≠ 5 := by decide
  have hK2 : ∀ e ∈ wiringK2.entries, 1 ≤ e ∧ e ≤ 10 ∧ e ≠ 4 ∧ e ≠ 7 := by decide
  simp only [Obligations.DefaultScheduleWiring, generateKeys_tables]
  refine ⟨fun k => ⟨toDigits_permute k wiringK1, toDigits_permute k wiringK2⟩, fun k k' h => ?K1, fun k k' h => ?K2⟩
  case K1 =>
    refine permute_congr wiringK1 fun e he => ?_
    obtain ⟨h1, h2, h3, h4⟩ := hK1 e he
    exact h e h1 h2 h3 h4
  case K2 =>
    refine permute_congr wiringK2 fun e he => ?_
    obtain ⟨h1, h2, h3, h4⟩ := hK2 e he
    exact h e h1 h2 h3 h4

end Wiring

section EqualSubkeys
variable {k : Bits 10}

theorem rotateHalves_zero (r : Nat) : rotateHalves (0#10) r = 0#10 := by
  refine ext_pos fun e h1 h2 => ?_
  rw [pos_rotateHalves _ r h1 h2, pos_zero, pos_zero]

theorem rotateHalves_allOnes (r : Nat) : rotateHalves (BitVec.allOnes 10) r = BitVec.allOnes 10 := by
  refine ext_pos fun e h1 h2 => ?_
  obtain ⟨hlow, hhigh⟩ := halfSource_mem r e
  rw [pos_rotateHalves _ r h1 h2, pos_allOnes hlow hhigh, pos_allOnes h1 h2]

theorem generateKeys_zero (T : Tbl) : generateKeys T (0#10) = (0#8, 0#8) := by
  simp only [generateKeys_eq, permute_zero, rotateHalves_zero]

theorem generateKeys_allOnes (T : Tbl) :
    generateKeys T (BitVec.allOnes 10) = (BitVec.allOnes 8, BitVec.allOnes 8) := by
  simp only [generateKeys_eq, permute_allOnes, rotateHalves_allOnes]

/-- One key position of each of the three classes that equal subkeys make of the ten. -/
def classHeads : PermTable 10 3 := ⟨[1, 2, 4], by decide⟩

/-- The class of each key position: those of positions 1, 2 and 4. -/
def classOf : PermTable 3 10 := ⟨[1, 2, 2, 3, 3, 1, 2, 1, 1, 1], by decide⟩

/-- Equal subkeys compare the two wirings position by position, and the ten key bits fall into three classes. -/
theorem key_of_equal_subkeys (h : permute k wiringK1 = permute k wiringK2) :
    k = permute (permute k classHeads) classOf := by
  have hpos (j : Nat) (h1 : 1 ≤ j) (h2 : j ≤ 8) :
      pos k (tableEntry wiringK1 j) = pos k (tableEntry wiringK2 j) := by
    rw [← pos_permute k wiringK1 h1 h2, h, pos_permute k wiringK2 h1 h2]
  have h18 : pos k 1 = pos k 8 := hpos 1 (by decide) (by decide)
  have h73 : pos k 7 = pos k 3 := hpos 2 (by decide) (by decide)
  have h96 : pos k 9 = pos k 6 := hpos 3 (by decide) (by decide)
  have h45 : pos k 4 = pos k 5 := hpos 4 (by decide) (by decide)
  have h810 : pos k 8 = pos k 10 := hpos 5 (by decide) (by decide)
  have h32 : pos k 3 = pos k 2 := hpos 6 (by decide) (by decide)
  have h109 : pos k 10 = pos k 9 := hpos 7 (by decide) (by decide)
  refine ext_pos fun i h1 h2 => ?_
  obtain ⟨hlow, hhigh⟩ := tableEntry_mem classOf h1 h2
  rw [pos_permute _ _ h1 h2, pos_permute _ _ hlow hhigh]
  interval_cases i <;> simp [tableEntry, classOf, classHeads, *]

/-- The keys of R136. -/
def equalSubkeyKeys : List (Bits 10) :=
  [0b0000000000#10, 0b0001100000#10, 0b0110001000#10, 0b0111101000#10,
    0b1000010111#10, 0b1001110111#10, 0b1110011111#10, 0b1111111111#10]

/-- They are the keys constant on each class. -/
theorem mem_equalSubkeyKeys_iff : k ∈ equalSubkeyKeys ↔ ∃ c : Bits 3, permute c classOf = k := by
  have himage : equalSubkeyKeys = (List.finRange 8).map fun c => permute (BitVec.ofFin (w := 3) c) classOf := by decide
  rw [himage, List.mem_map]
  exact ⟨fun ⟨c, _, hc⟩ => ⟨BitVec.ofFin c, hc⟩, fun ⟨c, hc⟩ => ⟨c.toFin, List.mem_finRange _, hc⟩⟩

/-- Both wirings take the same class at every position. -/
theorem permute_wiring_of_class (c : Bits 3) :
    permute (permute c classOf) wiringK1 = permute (permute c classOf) wiringK2 := by
  revert c
  decide

theorem equal_subkeys_iff : permute k wiringK1 = permute k wiringK2 ↔ k ∈ equalSubkeyKeys := by
  rw [mem_equalSubkeyKeys_iff]
  constructor
  · intro h
    exact ⟨_, (key_of_equal_subkeys h).symm⟩
  · rintro ⟨c, rfl⟩
    exact permute_wiring_of_class c

/-- Settles O19: constant sequences stay constant on the way; under the default tables the two wirings compare key bits. -/
theorem keysWithEqualSubkeys : Obligations.KeysWithEqualSubkeys := by
  refine ⟨fun T => ⟨generateKeys_zero T, generateKeys_allOnes T⟩, fun k => ?_, fun k s _ => ⟨_, exec_loadkey, rfl, rfl, rfl⟩⟩
  rw [generateKeys_tables]
  exact equal_subkeys_iff

end EqualSubkeys

end Sys2Proof.Proofs
end

section
/-!
PROOFS. Substitution and the rounds. An S-box value is in range because a table set is well-formed (R150, R153), so its two
bits are its quotient and remainder (R152); the round equations read four such bits through P4 (R171).
-/

namespace Sys2Proof.Proofs

open Sys2Proof.Machine Sys2Proof.Laws

section Substitution
variable (T : SBox) (h : Bits 4)

theorem bitVal_le_one (b : Bool) : bitVal b ≤ 1 := by
  cases b <;> decide

theorem sboxRow_le : sboxRow h ≤ 3 := by
  have h1 := bitVal_le_one (pos h 1)
  have h4 := bitVal_le_one (pos h 4)
  rw [sboxRow]
  omega

theorem sboxCol_le : sboxCol h ≤ 3 := by
  have h2 := bitVal_le_one (pos h 2)
  have h3 := bitVal_le_one (pos h 3)
  rw [sboxCol]
  omega

/-- R153: the values of a well-formed table are in range. -/
theorem sboxValue_le {row col : Nat} (hrow : row ≤ 3) (hcol : col ≤ 3) : sboxValue T row col ≤ 3 := by
  obtain ⟨hlen, hrows⟩ := sboxWf_iff.mp T.wf
  have hr : row < T.rows.length := by omega
  obtain ⟨hrowlen, hvalues⟩ := hrows _ (List.getElem_mem hr)
  have hc : col < T.rows[row].length := by omega
  rw [sboxValue, List.getD_eq_getElem _ _ hr, List.getD_eq_getElem _ _ hc]
  exact hvalues _ (List.getElem_mem hc)

/-- A number of two bits, most significant bit first (R14). -/
theorem ofNat_two_bits {v : Nat} (hv : v ≤ 3) :
    (BitVec.ofNat 2 v).toNat = v ∧ bitVal (pos (BitVec.ofNat 2 v) 1) = v / 2 ∧
      bitVal (pos (BitVec.ofNat 2 v) 2) = v % 2 := by
  interval_cases v <;> decide

/-- R151, R152: the output of an S-box, as a number and bit by bit. -/
theorem sbox_bits :
    (sbox h T).toNat = sboxValue T (sboxRow h) (sboxCol h) ∧
      bitVal (pos (sbox h T) 1) = sboxValue T (sboxRow h) (sboxCol h) / 2 ∧
      bitVal (pos (sbox h T) 2) = sboxValue T (sboxRow h) (sboxCol h) % 2 :=
  ofNat_two_bits (sboxValue_le T (sboxRow_le h) (sboxCol_le h))

/-- Rows of one width laid end to end: a column of a row is that many places after the rows before it. -/
theorem getD_flatten {rows : List (List Nat)} {width row col : Nat} (hwidth : ∀ l ∈ rows, l.length = width)
    (hcol : col < width) : rows.flatten.getD (width * row + col) 0 = (rows.getD row []).getD col 0 := by
  induction rows generalizing row with
  | nil => simp
  | cons l ls ih =>
    obtain ⟨hl, hls⟩ := List.forall_mem_cons.mp hwidth
    rw [List.flatten_cons]
    cases row with
    | zero =>
      rw [Nat.mul_zero, Nat.zero_add, List.getD_append _ _ _ _ (by omega)]
      rfl
    | succ row =>
      have hskip : width * (row + 1) + col - l.length = width * row + col := by
        rw [Nat.mul_succ, hl]
        omega
      have hle : l.length ≤ width * (row + 1) + col := by
        rw [Nat.mul_succ, hl]
        omega
      rw [List.getD_append_right _ _ _ _ hle, hskip, ih hls]
      rfl

/-- R157: the select value of the row-by-row grid. -/
theorem sboxValue_eq_flatten_getD {row col : Nat} (hcol : col ≤ 3) :
    sboxValue T row col = T.rows.flatten.getD (4 * row + col) 0 := by
  obtain ⟨-, hrows⟩ := sboxWf_iff.mp T.wf
  exact (getD_flatten (fun l hl => (hrows l hl).1) (Nat.lt_succ_of_le hcol)).symm

/-- Settles O20: row and column are those of `sbox` by definition; the index into the grid is four times the row, plus the
column. -/
theorem sboxByRowAndColumn : Obligations.SboxByRowAndColumn := by
  intro T h
  obtain ⟨hnum, hhigh, hlow⟩ := sbox_bits T h
  refine ⟨sboxRow_le h, sboxCol_le h, sboxValue_le T (sboxRow_le h) (sboxCol_le h), hnum, hhigh, hlow, ?select⟩
  case select =>
    have hindex : 8 * bitVal (pos h 1) + 4 * bitVal (pos h 4) + 2 * bitVal (pos h 2) + bitVal (pos h 3) =
        4 * sboxRow h + sboxCol h := by
      rw [sboxRow, sboxCol]
      omega
    rw [hindex]
    exact sboxValue_eq_flatten_getD T (sboxCol_le h)

/-- Settles O21: the sixteen inputs of each table are evaluated. -/
theorem defaultSboxTruthTables : Obligations.DefaultSboxTruthTables := by
  unfold Obligations.DefaultSboxTruthTables
  decide

end Substitution

section RoundEquations
variable (h : Bits 4) (k : Bits 8)

theorem pos_left4 {i : Nat} (p : Bits 8) (h1 : 1 ≤ i) (h2 : i ≤ 4) : pos (left4 p) i = pos p i := by
  rw [left4, pos_slice h1 h2, Nat.add_sub_cancel_left]

theorem pos_right4 {i : Nat} (p : Bits 8) (h1 : 1 ≤ i) (h2 : i ≤ 4) : pos (right4 p) i = pos p (4 + i) := by
  have hidx : 5 + i - 1 = 4 + i := by omega
  rw [right4, pos_slice h1 h2, hidx]

/-- The half expanded and mixed with the subkey: what the substitution reads (R166, R167). -/
def mixedHalf (T : Tbl) : Bits 8 := permute h T.EP ^^^ k

/-- A bit of the mixed half, as the equations of R171 write it. -/
def mixedBit (i j : Nat) : Nat := bitVal (pos h i ^^ pos k j)

theorem bitVal_pos_mixedHalf {T : Tbl} {j : Nat} (h1 : 1 ≤ j) (h2 : j ≤ 8) :
    bitVal (pos (mixedHalf h k T) j) = mixedBit h k (tableEntry T.EP j) j := by
  rw [mixedHalf, pos_xor, pos_permute h T.EP h1 h2, mixedBit]

/-- Row and column of the left S-box. -/
theorem row_col_left (T : Tbl) :
    sboxRow (left4 (mixedHalf h k T)) = 2 * mixedBit h k (tableEntry T.EP 1) 1 + mixedBit h k (tableEntry T.EP 4) 4 ∧
      sboxCol (left4 (mixedHalf h k T)) =
        2 * mixedBit h k (tableEntry T.EP 2) 2 + mixedBit h k (tableEntry T.EP 3) 3 := by
  simp [sboxRow, sboxCol, pos_left4, bitVal_pos_mixedHalf]

/-- Row and column of the right S-box. -/
theorem row_col_right (T : Tbl) :
    sboxRow (right4 (mixedHalf h k T)) = 2 * mixedBit h k (tableEntry T.EP 5) 5 + mixedBit h k (tableEntry T.EP 8) 8 ∧
      sboxCol (right4 (mixedHalf h k T)) =
        2 * mixedBit h k (tableEntry T.EP 6) 6 + mixedBit h k (tableEntry T.EP 7) 7 := by
  simp [sboxRow, sboxCol, pos_right4, bitVal_pos_mixedHalf]

/-- Substitute and permute: the digits of the round output are those of the two S-box outputs, in the order of P4
(R168, R169). -/
theorem toDigits_feistel (T : Tbl) :
    toDigits (feistel T h k) = T.P4.entries.map fun e =>
      bitVal (pos (sbox (left4 (mixedHalf h k T)) T.S0 ++ sbox (right4 (mixedHalf h k T)) T.S1 : BitVec (2 + 2)) e) :=
  toDigits_permute _ T.P4

/-- The four digits of two S-box outputs side by side. -/
theorem bitVal_pos_append (a b : Bits 2) :
    bitVal (pos (a ++ b : BitVec (2 + 2)) 1) = bitVal (pos a 1) ∧
      bitVal (pos (a ++ b : BitVec (2 + 2)) 2) = bitVal (pos a 2) ∧
      bitVal (pos (a ++ b : BitVec (2 + 2)) 3) = bitVal (pos b 1) ∧
      bitVal (pos (a ++ b : BitVec (2 + 2)) 4) = bitVal (pos b 2) := by
  refine ⟨?_, ?_, ?_, ?_⟩
  · rw [pos_append_left (by decide) (by decide)]
  · rw [pos_append_left (by decide) (by decide)]
  · exact congrArg bitVal (pos_append_right (m := 2) (i := 1) (by decide))
  · exact congrArg bitVal (pos_append_right (m := 2) (i := 2) (by decide))

/-- Settles O22: P4 of the default tables takes the digits 2, 4, 3, 1 of the S-box outputs; their rows and columns are
mixed bits, at the entries of EP. -/
theorem defaultRoundEquations : Obligations.DefaultRoundEquations := by
  intro h k x v0 v1
  obtain ⟨hrow0, hcol0⟩ := row_col_left h k tables
  obtain ⟨hrow1, hcol1⟩ := row_col_right h k tables
  obtain ⟨-, hhigh0, hlow0⟩ := sbox_bits tableS0 (left4 (mixedHalf h k tables))
  obtain ⟨-, hhigh1, hlow1⟩ := sbox_bits tableS1 (right4 (mixedHalf h k tables))
  rw [hrow0, hcol0] at hhigh0 hlow0
  rw [hrow1, hcol1] at hhigh1 hlow1
  obtain ⟨h1, h2, h3, h4⟩ := bitVal_pos_append (sbox (left4 (mixedHalf h k tables)) tableS0)
    (sbox (right4 (mixedHalf h k tables)) tableS1)
  rw [toDigits_feistel]
  change [_, _, _, _] = _
  simp only [List.cons.injEq, and_true]
  exact ⟨h2.trans hlow0, h4.trans hlow1, h3.trans hhigh1, h1.trans hhigh0⟩

end RoundEquations

section Rounds

/-- Settles O23: `permute_cipher`. -/
theorem cipherIsTwoRounds : Obligations.CipherIsTwoRounds := by
  intro T l0 r0 block ka kb h
  exact permute_cipher ka kb h

/-- Settles O24: `cipher_cipher`, and a function with an inverse is a bijection. -/
theorem cipherRoundTrip : Obligations.CipherRoundTrip := by
  intro T ka kb
  have hinv : Function.LeftInverse (fun c => cipher T c kb ka) (fun p => cipher T p ka kb) := cipher_cipher ka kb T
  have hinv' : Function.RightInverse (fun c => cipher T c kb ka) (fun p => cipher T p ka kb) := cipher_cipher kb ka T
  exact ⟨hinv, hinv', hinv.injective, hinv'.surjective⟩

/-- Settles O25: with one subkey the opposite order is the same order. -/
theorem equalSubkeysGiveInvolution : Obligations.EqualSubkeysGiveInvolution := by
  intro T r hk
  simp only [encrypt, decrypt, hk, cipher_cipher, implies_true, and_self]

end Rounds

end Sys2Proof.Proofs
end

section
/-!
PROOFS. The textual form of commands (R95). An operand is read exactly from the characters it prints as, and a mnemonic and
an operand with a space between them are the two words of their line, so a printed command assembles to its word.
-/

namespace Sys2Proof.Proofs

open Sys2Proof.Machine Sys2Proof.Laws

section Operand
variable {n : Nat} {a : List Char} {s : Bits n}

theorem digitOf_le_one_iff {c : Char} : digitOf c ≤ 1 ↔ c = '0' ∨ c = '1' := by
  by_cases h0 : c = '0'
  · simp [digitOf, h0]
  · by_cases h1 : c = '1' <;> simp [digitOf, h0, h1]

/-- A character that is a digit is printed as it was read. -/
theorem print_digitOf {c : Char} (h : c = '0' ∨ c = '1') : (if digitOf c == 1 then '1' else '0') = c := by
  rcases h with rfl | rfl <;> decide

/-- The two conditions on an operand (R95). -/
theorem seqWf_digits_iff : seqWf n (a.map digitOf) = true ↔ a.length = n ∧ ∀ c ∈ a, c = '0' ∨ c = '1' := by
  simp only [seqWf, Bool.and_eq_true, beq_iff_eq, List.all_eq_true, decide_eq_true_eq, List.length_map,
    List.forall_mem_map, digitOf_le_one_iff]

theorem parseBits_eq_none_iff : parseBits n a = none ↔ a.length ≠ n ∨ ∃ c ∈ a, c ≠ '0' ∧ c ≠ '1' := by
  have hnone : parseBits n a = none ↔ ¬seqWf n (a.map digitOf) = true := by simp [parseBits, ofDigits]
  rw [hnone, seqWf_digits_iff, not_and_or]
  push Not
  rfl

@[simp] theorem length_printBits (s : Bits n) : (printBits s).length = n := by simp [printBits]

theorem getElem_printBits {i : Nat} (hi : i < (printBits s).length) :
    (printBits s)[i] = if pos s (i + 1) then '1' else '0' := by simp [printBits]

theorem mem_printBits {c : Char} (h : c ∈ printBits s) : c = '0' ∨ c = '1' := by
  obtain ⟨i, hi, rfl⟩ := List.mem_iff_getElem.mp h
  rw [getElem_printBits]
  cases pos s (i + 1) <;> decide

/-- The bits of a sequence can be read off what it prints as. -/
theorem pos_eq_print_beq (s : Bits n) {i : Nat} (hi : i < n) : pos s (i + 1) = ((printBits s)[i]? == some '1') := by
  have hlt : i < (printBits s).length := by rwa [length_printBits]
  rw [List.getElem?_eq_getElem hlt, getElem_printBits]
  cases pos s (i + 1) <;> decide

theorem printBits_injective : Function.Injective (printBits (n := n)) := by
  intro s s' h
  refine ext_pos fun i h1 h2 => ?_
  obtain ⟨j, rfl⟩ := Nat.exists_eq_add_of_le' h1
  rw [pos_eq_print_beq s h2, h, ← pos_eq_print_beq s' h2]

/-- An operand that is read prints back as it was. -/
theorem printBits_of_parseBits (h : parseBits n a = some s) : printBits s = a := by
  unfold parseBits ofDigits at h
  split at h
  case isFalse => cases h
  case isTrue hwf =>
    cases h
    obtain ⟨hlen, hdigits⟩ := seqWf_digits_iff.mp hwf
    refine List.ext_getElem (by simp [hlen]) fun i h1 h2 => ?_
    rw [getElem_printBits, pos_ofPos (Nat.le_add_left 1 i) (by omega), ← print_digitOf (hdigits _ (List.getElem_mem h2))]
    simp [h2]

/-- What a sequence prints as is read as that sequence. -/
theorem parseBits_printBits (s : Bits n) : parseBits n (printBits s) = some s := by
  cases h : parseBits n (printBits s) with
  | none =>
    rcases parseBits_eq_none_iff.mp h with hlen | ⟨c, hc, h0, h1⟩
    · exact absurd (length_printBits s) hlen
    · exact absurd (mem_printBits hc) (not_or.mpr ⟨h0, h1⟩)
  | some s' => rw [printBits_injective (printBits_of_parseBits h)]

/-- Settles O9: an operand is read when both conditions hold, and then digit by digit. -/
theorem operandSyntax : Obligations.OperandSyntax := by
  intro n a
  exact ⟨parseBits_eq_none_iff, fun s => printBits_of_parseBits⟩

end Operand

section Line
variable {w a : List Char}

/-- A word of a line: not empty, with neither a blank nor the start of a comment in it. -/
structure PlainWord (w : List Char) : Prop where
  nonempty : w ≠ []
  plain : ∀ c ∈ w, isBlank c = false ∧ c ≠ ';'

theorem splitBlanks_of_no_blank (h : ∀ c ∈ w, isBlank c = false) : splitBlanks w = [w] := by
  induction w with
  | nil => rfl
  | cons c cs ih =>
    obtain ⟨hc, hcs⟩ := List.forall_mem_cons.mp h
    simp [splitBlanks, hc, ih hcs]

theorem splitBlanks_append_space (h : ∀ c ∈ w, isBlank c = false) (rest : List Char) :
    splitBlanks (w ++ ' ' :: rest) = w :: splitBlanks rest := by
  induction w with
  | nil => rfl
  | cons c cs ih =>
    obtain ⟨hc, hcs⟩ := List.forall_mem_cons.mp h
    simp [splitBlanks, hc, ih hcs]

/-- Two plain words with a space between them are the words of the line. -/
theorem lineWords_of_two (hw : PlainWord w) (ha : PlainWord a) : lineWords (w ++ ' ' :: a) = [w, a] := by
  have hcomment : ∀ c ∈ w ++ ' ' :: a, (c != ';') = true := by
    intro c hc
    rw [bne_iff_ne]
    rcases List.mem_append.mp hc with h | h
    · exact (hw.plain c h).2
    · rcases List.mem_cons.mp h with rfl | h
      · decide
      · exact (ha.plain c h).2
  rw [lineWords, List.takeWhile_eq_self_iff.mpr hcomment, splitBlanks_append_space fun c hc => (hw.plain c hc).1,
    splitBlanks_of_no_blank fun c hc => (ha.plain c hc).1]
  simp [hw.nonempty, ha.nonempty]

theorem plainWord_printBits {n : Nat} (hn : n ≠ 0) (s : Bits n) : PlainWord (printBits s) where
  nonempty h := hn (by rw [← length_printBits s, h, List.length_nil])
  plain c hc := by rcases mem_printBits hc with rfl | rfl <;> decide

theorem plainWord_mnemonics : PlainWord textLoadkey ∧ PlainWord textEncrypt ∧ PlainWord textDecrypt :=
  ⟨⟨nofun, by simp [textLoadkey, isBlank]⟩, ⟨nofun, by simp [textEncrypt, isBlank]⟩,
    ⟨nofun, by simp [textDecrypt, isBlank]⟩⟩

/-- Settles O8: the line of a command has its mnemonic and its operand as words; the mnemonics differ. -/
theorem assembleOfPrint : Obligations.AssembleOfPrint := by
  obtain ⟨hloadkey, hencrypt, hdecrypt⟩ := plainWord_mnemonics
  have hne : textEncrypt ≠ textLoadkey ∧ textDecrypt ≠ textLoadkey ∧ textDecrypt ≠ textEncrypt := by decide
  intro i
  cases i with
  | loadkey k =>
    simp [assembleLine, printInstr, lineWords_of_two hloadkey (plainWord_printBits _ k), parseBits_printBits]
  | encrypt b =>
    simp [assembleLine, printInstr, lineWords_of_two hencrypt (plainWord_printBits _ b), parseBits_printBits, hne]
  | decrypt b =>
    simp [assembleLine, printInstr, lineWords_of_two hdecrypt (plainWord_printBits _ b), parseBits_printBits, hne]

end Line

end Sys2Proof.Proofs
end
